-- ==== Sys2Proof/Word.lean ====
section
/-! DEFINITION. The byte type, the two PDU kinds, the units a transaction can be presented to, and a
transaction as the caller presents it (spec/00_scope.md rule R6, spec/10_state.md rules R15 and R16). -/

namespace Sys2Proof

/-- R6(a): a byte is an unsigned value of 8 bits. -/
abbrev Byte := BitVec 8

/-- R16: the declared PDU kind, a 1-bit port: 0 = AppKey Status, 1 = Model Publication Status. -/
inductive Kind where
  | appKeyStatus
  | modelPublicationStatus
deriving DecidableEq, Repr

/-- The unit whose ports carry a transaction. DESIGN CHOICE (log 6): the encodings of R52 share widths and have
no fixed bits, so the unit is told by where the words are presented, not by a bit of them. -/
inductive Port where
  /-- `code_in`, the stand-alone lookup (R74). -/
  | codeIn
  /-- The rows `STATUS.00` to `STATUS.DEFAULT` of the status table (R54, R63(b)). -/
  | statusRow
  /-- The operand of `KIDX.A`, format KA16 (R52). -/
  | kidxA
  /-- The operand of `KIDX.B`, format KB16 (R52). -/
  | kidxB
  /-- The operand of `MID16`, format M16 (R52). -/
  | mid16
  /-- The operand of `MID32`, format M32 (R52). -/
  | mid32
  /-- The length that `MIDSEL` chooses by (R112). -/
  | midsel
  /-- The `kind` and `len` ports: the two PDU decoders (R50, R84). -/
  | pdu
  /-- The `kind` and `len` ports, observed at the message base (R80). -/
  | base
  /-- The `opcode` and `len` ports: the `DECODE` front end (R83). -/
  | frontEnd
deriving DecidableEq, Repr

/-- The words of one operation: the unit they are presented to, and their bytes, lowest index first. -/
structure Words where
  port  : Port
  bytes : List Byte
deriving DecidableEq, Repr

/-- One transaction as the caller presents it (R15, R16): the words that select the operation, the parameter
buffer with index 0 first, and the two access security fields of the node context (R44). -/
structure Transaction where
  words  : Words
  buffer : List Byte
  akf    : BitVec 1
  /-- The identifier as a number; `Transaction.aidFits` says that the `aid` port carries it (log 13). -/
  aid    : Nat
deriving DecidableEq, Repr

/-- The `count` lowest bytes of `v`, least significant first. -/
def leBytes : Nat → Nat → List Byte
  | 0, _ => []
  | count + 1, v => BitVec.ofNat 8 v :: leBytes count (v / 256)

/-- The number whose bytes, least significant first, are the given ones. -/
def leValue : List Byte → Nat
  | [] => 0
  | b :: bs => b.toNat + 256 * leValue bs

end Sys2Proof
end

