-- ==== Sys2Proof/Config.lean ====
section
/-! DEFINITION. The build-time parameters of spec/00_scope.md rule R5 that are OPEN, with the defaults the spec
recommends. They are constants of an instance (R13), so no step changes one; every meaning takes them as an
argument, and a statement over all states is a statement over all of their values (log 2). -/

namespace Sys2Proof

/-- R101: what `DEC.APPKEY` does when the buffer is longer than 5 bytes. -/
inductive Overlength where
  /-- Return `InvalidLength`. -/
  | reject
  /-- Decode the first 5 bytes. -/
  | ignoreTail
deriving DecidableEq, Repr

/-- R5: the parameters a model takes as arguments. -/
structure Params where
  /-- `APPKEY_OVERLENGTH`. -/
  appkeyOverlength  : Overlength
  /-- `NAME_TABLE` (R73): entry 0 "Success" and entry 18 "RFU" by the source, entries 1 to 17 OPEN. -/
  nameTable         : List String
  /-- `OPC_APPKEY_STATUS` (R60). -/
  opcAppkeyStatus   : BitVec 32
  /-- `OPC_MODEL_PUB_STATUS` (R60). -/
  opcModelPubStatus : BitVec 32
  /-- `AID_W`, the width of the application-key identifier (R80). -/
  aidW              : Nat
  /-- `LEN_W`, the width of the `len` port (R16, R175). -/
  lenW              : Nat
  /-- `LOOKUP_TOTAL` (R72): an instance with `false` is refused (R162). -/
  lookupTotal       : Bool
deriving DecidableEq, Repr

/-- R70: the default names. Entries 1 to 17 are PRESUMED, general knowledge in the spec's own words (log 4). -/
def Params.defaultNames : List String :=
  ["Success", "Invalid Address", "Invalid Model", "Invalid AppKey Index", "Invalid NetKey Index",
   "Insufficient Resources", "Key Index Already Stored", "Invalid Publish Parameters",
   "Not a Subscribe Model", "Storage Failure", "Feature Not Supported", "Cannot Update"] ++
  ["Cannot Remove", "Cannot Bind", "Temporarily Unable to Change State", "Cannot Set",
   "Unspecified Error", "Invalid Binding", "RFU"]

/-- R5: every OPEN parameter at the default the spec recommends; the opcodes, the widths and the names 1 to 17
are PRESUMED (log 4). -/
def Params.default : Params where
  appkeyOverlength  := .reject
  nameTable         := Params.defaultNames
  opcAppkeyStatus   := 0x00008003#32
  opcModelPubStatus := 0x00008019#32
  aidW              := 6
  lenW              := 9
  lookupTotal       := true

end Sys2Proof
end

