-- ==== Sys2Proof/Syntax.lean ====
section
/-! DEFINITION. The operations: one constructor per row of spec/opcode_table.json (spec/00_scope.md rule R3,
spec/30_encoding.md rule R63). The parameter buffer, the access security fields and the parameters are read from
the state, as the block reads them from its ports. -/

namespace Sys2Proof

/-- R3, R63: the closed set of operations; nothing else is admitted (R8(3)). -/
inductive Instr where
  /-- `LOOKUP c` (R71). -/
  | lookup (c : Byte)
  /-- `STATUS.00`: the table row of code 0 (R70, R54). -/
  | status00
  /-- `STATUS.01`: the table row of code 1 (R70, R54). -/
  | status01
  /-- `STATUS.02`: the table row of code 2 (R70, R54). -/
  | status02
  /-- `STATUS.03`: the table row of code 3 (R70, R54). -/
  | status03
  /-- `STATUS.04`: the table row of code 4 (R70, R54). -/
  | status04
  /-- `STATUS.05`: the table row of code 5 (R70, R54). -/
  | status05
  /-- `STATUS.06`: the table row of code 6 (R70, R54). -/
  | status06
  /-- `STATUS.07`: the table row of code 7 (R70, R54). -/
  | status07
  /-- `STATUS.08`: the table row of code 8 (R70, R54). -/
  | status08
  /-- `STATUS.09`: the table row of code 9 (R70, R54). -/
  | status09
  /-- `STATUS.10`: the table row of code 10 (R70, R54). -/
  | status10
  /-- `STATUS.11`: the table row of code 11 (R70, R54). -/
  | status11
  /-- `STATUS.12`: the table row of code 12 (R70, R54). -/
  | status12
  /-- `STATUS.13`: the table row of code 13 (R70, R54). -/
  | status13
  /-- `STATUS.14`: the table row of code 14 (R70, R54). -/
  | status14
  /-- `STATUS.15`: the table row of code 15 (R70, R54). -/
  | status15
  /-- `STATUS.16`: the table row of code 16 (R70, R54). -/
  | status16
  /-- `STATUS.17`: the table row of code 17 (R70, R54). -/
  | status17
  /-- `STATUS.18`: the table row of code 18 (R70, R54). -/
  | status18
  /-- `STATUS.DEFAULT`: the default arm, for a code no other row matches (R54). -/
  | statusDefault (c : Byte)
  /-- `KIDX.A lo hi` (R90). -/
  | kidxA (lo hi : Byte)
  /-- `KIDX.B lo hi` (R91). -/
  | kidxB (lo hi : Byte)
  /-- `MID16 b0 b1` (R110). -/
  | mid16 (b0 b1 : Byte)
  /-- `MID32 b0 b1 b2 b3` (R111). -/
  | mid32 (b0 b1 b2 b3 : Byte)
  /-- `MIDSEL` on a buffer of `len` bytes (R112). -/
  | midsel (len : Nat)
  /-- `DEC.APPKEY`: kind 0 on a buffer of `len` bytes (R100, R101). -/
  | decAppkey (len : Nat)
  /-- `DEC.MODELPUB`: kind 1 on a buffer of `len` bytes (R120, R123). -/
  | decModelpub (len : Nat)
  /-- `DEC.MODELPUB.SIG`: kind 1 on a buffer of 14 bytes (R121). -/
  | decModelpubSig
  /-- `DEC.MODELPUB.VND`: kind 1 on a buffer of 16 bytes (R122). -/
  | decModelpubVnd
  /-- `BASE` inside the decode of a PDU of the kind on a buffer of `len` bytes (R80). -/
  | base (kind : Kind) (len : Nat)
  /-- `DECODE opcode` on a buffer of `len` bytes (R83). -/
  | decodeOp (opcode : BitVec 32) (len : Nat)
deriving DecidableEq, Repr

end Sys2Proof
end

