-- ==== Sys2Proof/WellFormed.lean ====
section
/-! DEFINITION. Which operations some words of the spec's encodings stand for (spec/30_encoding.md rules R52,
R54, R57, R62, R63), for a given width of the `len` port. -/

namespace Sys2Proof

/-- R16, R175: a length the `len` port can express. -/
def lenFits (lenW len : Nat) : Bool := decide (len < 2 ^ lenW)

/-- An operation that the decoder can answer with `lenW` bits of length. The parent row `DEC.MODELPUB` carries
only the lengths its two sub-rows do not match (R63(a)), and the default arm only the codes that no other row of the
status table matches (R54). -/
def Instr.wf (lenW : Nat) : Instr → Bool
  | .lookup _ => true
  | .status00 | .status01 | .status02 | .status03 | .status04 | .status05 | .status06 | .status07
  | .status08 | .status09 | .status10 | .status11 | .status12 | .status13 | .status14 | .status15
  | .status16 | .status17 | .status18 => true
  | .statusDefault c => decide (0x13 ≤ c.toNat)
  | .kidxA _ _ | .kidxB _ _ | .mid16 _ _ | .mid32 _ _ _ _ => true
  | .midsel len => lenFits lenW len
  | .decAppkey len => lenFits lenW len
  | .decModelpub len => lenFits lenW len && decide (len ≠ 14) && decide (len ≠ 16)
  | .decModelpubSig => lenFits lenW 14
  | .decModelpubVnd => lenFits lenW 16
  | .base _ len => lenFits lenW len
  | .decodeOp _ len => lenFits lenW len

/-- R16: a transaction whose identifier is a value of the `aid` port of `aidW` bits. -/
def Transaction.aidFits (aidW : Nat) (t : Transaction) : Bool := decide (t.aid < 2 ^ aidW)

end Sys2Proof
end

