-- ==== Sys2Proof/Decode.lean ====
section
/-! DEFINITION. Decoding the words of an operation, the encoder, and the host's reading of a table word
(spec/30_encoding.md rules R50 to R63). A refusal names what is wrong: only words that no port of the block can
carry are refused, since selection is total (R50). -/

namespace Sys2Proof

/-- Why some bytes are not the words of an operation. -/
inductive DecodeError where
  /-- The number of bytes is not the width of the operand that the unit takes (R52). -/
  | operandWidth (port : Port)
  /-- A bit above the selector word, or above the `len` port, is set (R63(a): `sel` has 1 + `LEN_W` bits). -/
  | selectorPadding (port : Port)
deriving DecidableEq, Repr

/-- The bytes that hold a selector word of 1 + `lenW` bits. DESIGN CHOICE (log 7): least significant byte first. -/
def selBytes (lenW : Nat) : Nat := lenW / 8 + 1

/-- The number of bytes that the words on a unit's ports have: R52 for the small units, R54 for a status code, R63(a) for the
selector word, and 32 bits of opcode before the length for the front end. -/
def portBytes (lenW : Nat) : Port → Nat
  | .codeIn | .statusRow => 1
  | .kidxA | .kidxB | .mid16 => 2
  | .mid32 => 4
  | .midsel | .pdu | .base => selBytes lenW
  | .frontEnd => 4 + selBytes lenW

/-- R16: the bit on the `kind` port. -/
def kindBit : Kind → Nat
  | .appKeyStatus => 0
  | .modelPublicationStatus => 1

/-- R16: the kind that a bit on the `kind` port declares. -/
def kindOf (n : Nat) : Kind := if n = 0 then .appKeyStatus else .modelPublicationStatus

/-- R63(a): the selector word `sel = (kind, len[LEN_W-1:0])`, the kind in the most significant position. -/
def selWord (lenW : Nat) (kind : Kind) (len : Nat) : Nat := kindBit kind * 2 ^ lenW + len % 2 ^ lenW

/-- The bytes of the `len` port. -/
def lenBytes (lenW len : Nat) : List Byte := leBytes (selBytes lenW) (len % 2 ^ lenW)

/-- Reading the `len` port. -/
def readLen (lenW : Nat) (port : Port) (bytes : List Byte) : Except DecodeError Nat :=
  if bytes.length ≠ selBytes lenW then .error (.operandWidth port)
  else if 2 ^ lenW ≤ leValue bytes then .error (.selectorPadding port)
  else .ok (leValue bytes)

/-- Reading the selector word: its kind and its length (R63(a)). -/
def readSel (lenW : Nat) (port : Port) (bytes : List Byte) : Except DecodeError (Kind × Nat) :=
  if bytes.length ≠ selBytes lenW then .error (.operandWidth port)
  else if 2 ^ (lenW + 1) ≤ leValue bytes then .error (.selectorPadding port)
  else .ok (kindOf (leValue bytes / 2 ^ lenW), leValue bytes % 2 ^ lenW)

/-- R54, R63(b): the row of the status table that a code matches; the default arm has the lowest priority. -/
def statusRowOf (c : Byte) : Instr :=
  match c.toNat with
  | 0 => .status00
  | 1 => .status01
  | 2 => .status02
  | 3 => .status03
  | 4 => .status04
  | 5 => .status05
  | 6 => .status06
  | 7 => .status07
  | 8 => .status08
  | 9 => .status09
  | 10 => .status10
  | 11 => .status11
  | 12 => .status12
  | 13 => .status13
  | 14 => .status14
  | 15 => .status15
  | 16 => .status16
  | 17 => .status17
  | 18 => .status18
  | _ => .statusDefault c

/-- R50, R62, R63(a): the row a selector word matches. Kind 1 matches a sub-row when the length is 14 or 16, and
the parent row otherwise. -/
def pduRowOf : Kind → Nat → Instr
  | .appKeyStatus, len => .decAppkey len
  | .modelPublicationStatus, len =>
    if len = 14 then .decModelpubSig else if len = 16 then .decModelpubVnd else .decModelpub len

/-- Decoding, total on any bytes (R50, R52, R60, R72). -/
def decode (lenW : Nat) (w : Words) : Except DecodeError Instr :=
  match w.port with
  | .codeIn =>
    match w.bytes with
    | [c] => .ok (.lookup c)
    | _ => .error (.operandWidth .codeIn)
  | .statusRow =>
    match w.bytes with
    | [c] => .ok (statusRowOf c)
    | _ => .error (.operandWidth .statusRow)
  | .kidxA =>
    match w.bytes with
    | [lo, hi] => .ok (.kidxA lo hi)
    | _ => .error (.operandWidth .kidxA)
  | .kidxB =>
    match w.bytes with
    | [lo, hi] => .ok (.kidxB lo hi)
    | _ => .error (.operandWidth .kidxB)
  | .mid16 =>
    match w.bytes with
    | [b0, b1] => .ok (.mid16 b0 b1)
    | _ => .error (.operandWidth .mid16)
  | .mid32 =>
    match w.bytes with
    | [b0, b1, b2, b3] => .ok (.mid32 b0 b1 b2 b3)
    | _ => .error (.operandWidth .mid32)
  | .midsel => (readLen lenW .midsel w.bytes).map Instr.midsel
  | .pdu => (readSel lenW .pdu w.bytes).map fun s => pduRowOf s.1 s.2
  | .base => (readSel lenW .base w.bytes).map fun s => .base s.1 s.2
  | .frontEnd =>
    match w.bytes with
    | o3 :: o2 :: o1 :: o0 :: rest =>
      (readLen lenW .frontEnd rest).map fun len => .decodeOp (o3 ++ o2 ++ o1 ++ o0) len
    | _ => .error (.operandWidth .frontEnd)

/-- The bytes of the `opcode` port, most significant first (table row `DECODE`: "most significant byte first"). -/
def opcodeBytes (o : BitVec 32) : List Byte :=
  [o.extractLsb' 24 8, o.extractLsb' 16 8, o.extractLsb' 8 8, o.extractLsb' 0 8]

/-- The words of an operation. A length that the port cannot express is truncated to `LEN_W` bits, which is what
R175 says a transport must not do; `Instr.wf` excludes it. -/
def encode (lenW : Nat) : Instr → Words
  | .lookup c => ⟨.codeIn, [c]⟩
  | .status00 => ⟨.statusRow, [0x00#8]⟩
  | .status01 => ⟨.statusRow, [0x01#8]⟩
  | .status02 => ⟨.statusRow, [0x02#8]⟩
  | .status03 => ⟨.statusRow, [0x03#8]⟩
  | .status04 => ⟨.statusRow, [0x04#8]⟩
  | .status05 => ⟨.statusRow, [0x05#8]⟩
  | .status06 => ⟨.statusRow, [0x06#8]⟩
  | .status07 => ⟨.statusRow, [0x07#8]⟩
  | .status08 => ⟨.statusRow, [0x08#8]⟩
  | .status09 => ⟨.statusRow, [0x09#8]⟩
  | .status10 => ⟨.statusRow, [0x0A#8]⟩
  | .status11 => ⟨.statusRow, [0x0B#8]⟩
  | .status12 => ⟨.statusRow, [0x0C#8]⟩
  | .status13 => ⟨.statusRow, [0x0D#8]⟩
  | .status14 => ⟨.statusRow, [0x0E#8]⟩
  | .status15 => ⟨.statusRow, [0x0F#8]⟩
  | .status16 => ⟨.statusRow, [0x10#8]⟩
  | .status17 => ⟨.statusRow, [0x11#8]⟩
  | .status18 => ⟨.statusRow, [0x12#8]⟩
  | .statusDefault c => ⟨.statusRow, [c]⟩
  | .kidxA lo hi => ⟨.kidxA, [lo, hi]⟩
  | .kidxB lo hi => ⟨.kidxB, [lo, hi]⟩
  | .mid16 b0 b1 => ⟨.mid16, [b0, b1]⟩
  | .mid32 b0 b1 b2 b3 => ⟨.mid32, [b0, b1, b2, b3]⟩
  | .midsel len => ⟨.midsel, lenBytes lenW len⟩
  | .decAppkey len => ⟨.pdu, leBytes (selBytes lenW) (selWord lenW .appKeyStatus len)⟩
  | .decModelpub len => ⟨.pdu, leBytes (selBytes lenW) (selWord lenW .modelPublicationStatus len)⟩
  | .decModelpubSig => ⟨.pdu, leBytes (selBytes lenW) (selWord lenW .modelPublicationStatus 14)⟩
  | .decModelpubVnd => ⟨.pdu, leBytes (selBytes lenW) (selWord lenW .modelPublicationStatus 16)⟩
  | .base kind len => ⟨.base, leBytes (selBytes lenW) (selWord lenW kind len)⟩
  | .decodeOp opcode len => ⟨.frontEnd, opcodeBytes opcode ++ lenBytes lenW len⟩

/-- The transaction that a word of spec/opcode_table.json stands for (log 16). The table's rows carry no mark of
their unit, so the width tells it: 8 bits are a row of the status table (SC8), 40, 112 and 128 bits are a whole PDU of
format AK5, MP14 and MP16, 32 bits are the opcode of `DECODE` with an empty buffer, and 16 bits hold the
selector word of R63(a) with a buffer of zeros of its length. DESIGN CHOICE (log 16): as a number, a PDU, a selector word and
a status code have byte 0 in their least significant byte, where R51 writes byte 0 first, leftmost. -/
def tableTransaction (lenW nbits w : Nat) : Option Transaction :=
  let pdu (kind : Kind) (len : Nat) (buffer : List Byte) : Transaction :=
    ⟨⟨.pdu, leBytes (selBytes lenW) (selWord lenW kind len)⟩, buffer, 0#1, 0⟩
  if nbits = 8 then some ⟨⟨.statusRow, leBytes 1 w⟩, [], 0#1, 0⟩
  else if nbits = 40 then some (pdu .appKeyStatus 5 (leBytes 5 w))
  else if nbits = 112 then some (pdu .modelPublicationStatus 14 (leBytes 14 w))
  else if nbits = 128 then some (pdu .modelPublicationStatus 16 (leBytes 16 w))
  else if nbits = 32 then some ⟨⟨.frontEnd, opcodeBytes (BitVec.ofNat 32 w) ++ lenBytes lenW 0⟩, [], 0#1, 0⟩
  else if nbits = 16 then
    some ⟨⟨.pdu, leBytes (selBytes lenW) w⟩, List.replicate (w % 2 ^ lenW) 0#8, 0#1, 0⟩
  else none

/-- The operation that this decoder reads from a word of the table, with the table's `LEN_W` of 9 bits (R63(a)). -/
def decodeTableWord (nbits w : Nat) : Option Instr :=
  match tableTransaction Params.default.lenW nbits w with
  | none => none
  | some t => (decode Params.default.lenW t.words).toOption

end Sys2Proof
end

