-- ==== Sys2Proof/Machine/State.lean ====
section
/-! DEFINITION. What State holds: the ports of one transaction (spec/10_state.md rules R15 to R19), the abstract
result (R22 to R24), the parameter space (spec/20_memory.md rule R25), the answer of a small unit (R52), the
build-time parameters (R5) and the caller's remaining transactions. The block itself keeps no state between transactions
(R10 to R14): these are the values its ports carry (log 1). -/

namespace Sys2Proof.Machine

/-- R140 to R144: the kinds of error a decode returns. They are values, not faults of the machine (R162). -/
inductive ErrorKind where
  /-- R140: an AppKey Status buffer shorter than 5 bytes. -/
  | truncatedPdu
  /-- R141: a length that the declared kind does not accept. -/
  | invalidLength
  /-- R142: declared, and produced by no transaction. -/
  | unrecognizedStatusCode
  /-- R144: an opcode with no decoder, in the `DECODE` front end only. -/
  | noDecoder
deriving DecidableEq, Repr

/-- R23, R114: the width of a model identifier, one of the two numbers 16 and 32. -/
inductive IdWidth where
  | bits16
  | bits32
deriving DecidableEq, Repr

/-- R112: a model identifier, zero-extended to 32 bits, and its width. -/
structure ModelId where
  identifier : BitVec 32
  width      : IdWidth
deriving DecidableEq, Repr

/-- R24: the fields common to every decoded status message. -/
structure Base where
  akf            : BitVec 1
  /-- The number that the `aid` port carries, below 2 ^ `AID_W` (log 13). -/
  aid            : Nat
  parameters     : List Byte
  statusCode     : Byte
  statusVariant  : BitVec 5
  statusCodeName : String
deriving DecidableEq, Repr

/-- R22, R23: the fields of a decoded AppKey Status message. -/
structure AppKeyStatus where
  base        : Base
  netKeyIndex : BitVec 12
  appKeyIndex : BitVec 12
deriving DecidableEq, Repr

/-- R22, R23: the fields of a decoded Model Publication Status message. -/
structure ModelPublicationStatus where
  base                           : Base
  elementAddress                 : BitVec 16
  publishAddressB0               : Byte
  publishAddressB1               : Byte
  appKeyIndex                    : BitVec 12
  credentialFlag                 : BitVec 4
  publishTtl                     : Byte
  publishPeriod                  : Byte
  publishRetransmitCount         : BitVec 3
  publishRetransmitIntervalSteps : BitVec 5
  modelId                        : ModelId
deriving DecidableEq, Repr

/-- R22: a decoded message of either kind. -/
inductive ConfigStatusMessage where
  | appKeyStatus (m : AppKeyStatus)
  | modelPublicationStatus (m : ModelPublicationStatus)
deriving DecidableEq, Repr

/-- R22: the result of a decode. The error arm carries nothing but its kind (R143). -/
inductive Result where
  | ok (m : ConfigStatusMessage)
  | err (k : ErrorKind)
deriving DecidableEq, Repr

/-- Which front `result` and the field outputs follow, the `kind` port (R84) or the `opcode` port (R83). DESIGN CHOICE (log 20):
R16 lists no input that tells this, and the spec does not say how the block knows; here the caller drives it with the PDU it
presents, and it keeps its value until another PDU is presented. -/
inductive Path where
  | direct
  | frontEnd
deriving DecidableEq, Repr

/-- R16: the input ports, but for the buffer window, which is the parameter space. -/
structure Inputs where
  /-- The model's own input, not in R16. DESIGN CHOICE (log 20). -/
  path   : Path
  kind   : Kind
  /-- A natural number in the abstract form, `LEN_W` bits at the port (log 13). -/
  len    : Nat
  akf    : BitVec 1
  /-- The number on the `aid` port, read and written through `aidPort`, which has `AID_W` bits (log 13). -/
  aid    : Nat
  opcode : BitVec 32
  codeIn : Byte
deriving DecidableEq, Repr

/-- R17, R18: the output ports. -/
structure Ports where
  result                         : BitVec 3
  statusCode                     : BitVec 8
  statusVariant                  : BitVec 5
  /-- By reference; `none` where no name is exposed (R19, log 9). -/
  statusName                     : Option String
  netKeyIndex                    : BitVec 12
  appKeyIndex                    : BitVec 12
  elementAddress                 : BitVec 16
  publishAddressB0               : BitVec 8
  publishAddressB1               : BitVec 8
  credentialFlag                 : BitVec 4
  publishTtl                     : BitVec 8
  publishPeriod                  : BitVec 8
  publishRetransmitCount         : BitVec 3
  publishRetransmitIntervalSteps : BitVec 5
  modelIdentifier                : BitVec 32
  modelIdentifierIs32            : BitVec 1
  akfOut                         : BitVec 1
  /-- The number on the `aid_out` port, which `basePorts` drives with `AID_W` bits (log 13). -/
  aidOut                         : Nat
  nameId                         : BitVec 5
deriving DecidableEq, Repr

/-- R52, R80, R112: what the unit that this transaction addressed on its own answers. Every transaction writes it whole, so
nothing of an earlier one stays (R14). DESIGN CHOICE (log 10): the spec gives these answers no port. -/
inductive Answer where
  /-- The transaction addressed no unit on its own. -/
  | silent
  /-- R90. -/
  | kidxA (k : BitVec 12)
  /-- R91. -/
  | kidxB (k : BitVec 12)
  /-- R110. -/
  | mid16 (v : BitVec 16)
  /-- R111. -/
  | mid32 (v : BitVec 32)
  /-- R112; `none` where the length check turned the buffer away before `MIDSEL`. -/
  | midsel (m : Option ModelId)
  /-- R80; `none` where the selected decoder returned an error, so that `BASE` was not evaluated. -/
  | base (b : Option Base)
deriving DecidableEq, Repr

/-- R15: the outputs that are a function of the parameters and the inputs present. -/
structure Outputs where
  /-- R22: the result in its abstract form. -/
  returned   : Result
  /-- R17, R18: the output ports. -/
  ports      : Ports
  /-- R71: the name half of the stand-alone lookup. -/
  lookupName : String
deriving DecidableEq, Repr

/-- The parameter space (R25) as bytes by index: indices strictly rising, no entry equal to the 0x00 that an
unlisted index reads as (log 5). Indices at or above `len` may hold anything (R173). -/
abbrev Memory := List Host.Cell

/-- From index `low` on: indices strictly rising and no byte 0x00. -/
def Memory.wfFrom : Nat → Memory → Bool
  | _, [] => true
  | low, (a, v) :: m => decide (low ≤ a) && decide (v ≠ 0#8) && Memory.wfFrom (a + 1) m

/-- The canonical form: equal contents are equal lists. -/
def Memory.wf (m : Memory) : Bool := Memory.wfFrom 0 m

/-- Everything the spec gives the machine. -/
structure State where
  /-- R5, R13: the build-time parameters, constant for the life of an instance (log 2). -/
  params     : Params
  /-- R15: the transactions that the caller has still to present, the next one first (log 1, log 8). -/
  pending    : List Transaction
  /-- R16: the input ports as the caller drives them. -/
  inputs     : Inputs
  /-- R25: the parameter space of the current transaction. -/
  mem        : Memory
  /-- R17, R18: the output ports. -/
  ports      : Ports
  /-- R22: the result in its abstract form. -/
  returned   : Result
  /-- R71: the name that the stand-alone lookup gives for `codeIn`. -/
  lookupName : String
  /-- The answer of the unit that the transaction addressed on its own (log 10). -/
  answer     : Answer
deriving DecidableEq, Repr

/-- Why the machine stops. The spec gives the block no fault (R162); these two guard the two address spaces, and no
transaction reaches them. -/
inductive Fault where
  /-- Raised by a read of the parameter space at an index not below `len`, which R7 leaves undefined and R29 says
  never happens (log 11). Safe. -/
  | readBeyondLength
  /-- Raised by a read of the name space at an index with no entry (R26); excluded for every instance that R162
  admits (log 11). Safe. -/
  | nameBeyondTable
deriving DecidableEq, Repr

/-- Why a step is refused. -/
inductive Refusal where
  /-- Raised by an arm of `exec` whose operation has no meaning yet. Safe. -/
  | notModelled (mnemonic : String)
  /-- Raised by `step` for parameters with which R162 refuses to instantiate the block (log 12). Safe. -/
  | notInstantiable
  /-- Raised by `step` for a transaction whose words no port of the block can carry (log 7). Safe. -/
  | undecodable (e : DecodeError)
  /-- Raised by `step` for a PDU whose identifier is no value of the `aid` port (R16, log 13). Safe. -/
  | aidTooWide
deriving DecidableEq, Repr

/-- The input ports at reset: the spec gives none ("whatever inputs are present", R21), so every one is 0.
DESIGN CHOICE (log 3). -/
def Inputs.reset : Inputs where
  path   := .direct
  kind   := .appKeyStatus
  len    := 0
  akf    := 0
  aid    := 0
  opcode := 0
  codeIn := 0

/-- The output ports at reset: what R17 to R19 give for those inputs (R21), which is `TruncatedPdu` (R140) and
every field 0 (R19). -/
def Ports.reset : Ports where
  result                         := 1
  statusCode                     := 0
  statusVariant                  := 0
  statusName                     := none
  netKeyIndex                    := 0
  appKeyIndex                    := 0
  elementAddress                 := 0
  publishAddressB0               := 0
  publishAddressB1               := 0
  credentialFlag                 := 0
  publishTtl                     := 0
  publishPeriod                  := 0
  publishRetransmitCount         := 0
  publishRetransmitIntervalSteps := 0
  modelIdentifier                := 0
  modelIdentifierIs32            := 0
  akfOut                         := 0
  aidOut                         := 0
  nameId                         := 0

/-- R21, R165: an instance with the given parameters right after reset, with no transaction pending and outputs that are the
function of the inputs present. The name of the lookup is entry 0 of the table, "Success" in every instance (R73), for
`codeIn` is 0. -/
def State.resetWith (prm : Params) : State where
  params     := prm
  pending    := []
  inputs     := Inputs.reset
  mem        := []
  ports      := Ports.reset
  returned   := .err .truncatedPdu
  lookupName := "Success"
  answer     := .silent

/-- The machine right after reset, an instance with the default parameters (R5, log 4). -/
def State.reset : State := State.resetWith Params.default

end Sys2Proof.Machine
end

