-- ==== Sys2Proof/Machine/Operands.lean ====
section
/-! DEFINITION. The bit fields and the assemblies of every operand form (spec/00_scope.md rule R6,
spec/20_memory.md rules R31 and R32, spec/30_encoding.md rules R52 and R53, spec/42_key_index_unpack.md,
spec/44_model_id_extract.md), and the fixed lengths of rule R5. No value is signed (R56). -/

namespace Sys2Proof.Machine

/-- R5: `AK_LEN`. -/
def akLen : Nat := 5

/-- R5: `MP_LEN_SIG`. -/
def mpLenSig : Nat := 14

/-- R5: `MP_LEN_VND`. -/
def mpLenVnd : Nat := 16

/-- R5: `WIN`, the number of buffer bytes at the ports `p[0]` to `p[15]` (R16). -/
def win : Nat := 16

/-- R5: `N_STATUS`. -/
def nStatus : Nat := 19

/-- R5: `RFU_VARIANT`. -/
def rfuVariant : BitVec 5 := 18

/-- R16, R18, R80: a number on a port of `AID_W` bits. -/
def aidPort (prm : Params) (n : Nat) : BitVec prm.aidW := BitVec.ofNat prm.aidW n

/-- R6(c): `b[3:0]`. -/
def lowNibble (b : Byte) : BitVec 4 := b.extractLsb' 0 4

/-- R6(c): `b[7:4]`. -/
def highNibble (b : Byte) : BitVec 4 := b.extractLsb' 4 4

/-- R6(c): `b[7:5]`, unsigned (R56). -/
def topThree (b : Byte) : BitVec 3 := b.extractLsb' 5 3

/-- R6(c): `b[4:0]`. -/
def lowFive (b : Byte) : BitVec 5 := b.extractLsb' 0 5

/-- R31: a 16-bit word whose less significant byte comes first in the buffer. -/
def word16 (b0 b1 : Byte) : BitVec 16 := b1 ++ b0

/-- R90: `KIDX.A(lo, hi)`, the nibble `hi[3:0]` above the whole byte `lo`. -/
def kidxA (lo hi : Byte) : BitVec 12 := lowNibble hi ++ lo

/-- R91: `KIDX.B(lo, hi)`, the whole byte `hi` above the nibble `lo[7:4]`. -/
def kidxB (lo hi : Byte) : BitVec 12 := hi ++ highNibble lo

/-- R110: `MID16(b0, b1)`. -/
def mid16 (b0 b1 : Byte) : BitVec 16 := word16 b0 b1

/-- R111: `MID32(b0, b1, b2, b3)`, two little-endian halves, the first pair the upper one. -/
def mid32 (b0 b1 b2 b3 : Byte) : BitVec 32 := mid16 b0 b1 ++ mid16 b2 b3

/-- R53, D27: a 16-bit identifier on the 32-bit port. -/
def zext32 (v : BitVec 16) : BitVec 32 := 0#16 ++ v

end Sys2Proof.Machine
end

