-- ==== Sys2Proof/Machine/Flags.lean ====
section
/-! DEFINITION. The status indications of a transaction. The block has no flags (spec/10_state.md rule R12): what
it reports is the `result` tag (R17), the status variant (spec/40_status_lookup.md rule R71) and the width bit of the
model identifier (R112). -/

namespace Sys2Proof.Machine

/-- R17, R140 to R144: the code of an error on the `result` port. -/
def errorCode : ErrorKind → BitVec 3
  | .truncatedPdu => 1
  | .invalidLength => 2
  | .unrecognizedStatusCode => 3
  | .noDecoder => 4

/-- R71: `variant(c)`, the code itself up to 0x11 and 18 from there on. -/
def variant (c : Byte) : BitVec 5 := if c.toNat ≤ 0x11 then c.setWidth 5 else rfuVariant

/-- R18, D28: the `model_identifier_is_32` port. -/
def widthBit : IdWidth → BitVec 1
  | .bits16 => 0
  | .bits32 => 1

/-- R23: the number that `modelIdentifierWidth` is. -/
def widthNumber : IdWidth → Nat
  | .bits16 => 16
  | .bits32 => 32

end Sys2Proof.Machine
end

