-- ==== Sys2Proof/Machine/Ops.lean ====
section
/-! DEFINITION. The named operations over the parameter space, the name table and the ports: reading (spec/20_memory.md
rules R25 to R29), the lookup (R71), the message base (R80), driving the outputs (R17 to R19), delivering an error
(R149), and presenting the caller's next transaction (R15, R16). -/

namespace Sys2Proof.Machine

/-! ### The parameter space -/

/-- The byte at an index, 0x00 where none is listed (log 5). -/
def readMem : Memory → Nat → Byte
  | [], _ => 0#8
  | (a, v) :: m, i => if a = i then v else readMem m i

/-- The caller's write of one byte (the block writes none, R30), kept in canonical form. -/
def writeMem : Memory → Nat → Byte → Memory
  | [], i, v => if v = 0#8 then [] else [(i, v)]
  | (a, b) :: m, i, v =>
    if i < a then (if v = 0#8 then (a, b) :: m else (i, v) :: (a, b) :: m)
    else if i = a then (if v = 0#8 then m else (i, v) :: m)
    else (a, b) :: writeMem m i v

/-- The caller's writes of a run of bytes from an index on. Bytes beyond it stay as they were (R173, log 18). -/
def writeBytes : Memory → Nat → List Byte → Memory
  | m, _, [] => m
  | m, i, v :: vs => writeBytes (writeMem m i v) (i + 1) vs

/-- R7: `MemRead(i, 1)`, defined only for an index below `len`. -/
def memRead (m : Memory) (len i : Nat) : Except Fault Byte :=
  if i < len then .ok (readMem m i) else .error .readBeyondLength

/-- R24, R25: the buffer `P` as a whole, index 0 first. -/
def buffer (m : Memory) (len : Nat) : List Byte := (List.range len).map (readMem m)

/-- R16: the window `p[0]` to `p[15]` of the port form. -/
def window (m : Memory) : List Byte := buffer m win

/-! ### The name space -/

/-- R26, R71: the name of a variant. -/
def nameOf (prm : Params) (v : BitVec 5) : Except Fault String :=
  match prm.nameTable[v.toNat]? with
  | some name => .ok name
  | none => .error .nameBeyondTable

/-- R162: the parameters with which the block can be instantiated. -/
def instantiable (prm : Params) : Bool :=
  decide (prm.opcAppkeyStatus ≠ prm.opcModelPubStatus) &&
  decide (prm.nameTable.length = nStatus) &&
  decide (prm.nameTable[0]? = some "Success") &&
  decide (prm.nameTable[18]? = some "RFU") &&
  prm.lookupTotal

/-! ### The message base -/

/-- R80, R24: `BASE(akf, aid, P)`, with `aid` the `AID_W` bits at its port. -/
def makeBase (prm : Params) (inp : Inputs) (m : Memory) (len : Nat) : Except Fault Base := do
  let statusCode ← memRead m len 0
  let name ← nameOf prm (variant statusCode)
  return { akf := inp.akf, aid := (aidPort prm inp.aid).toNat, parameters := buffer m len,
           statusCode := statusCode, statusVariant := variant statusCode, statusCodeName := name }

/-- R24: the base of a decoded message. -/
def baseOf : ConfigStatusMessage → Base
  | .appKeyStatus a => a.base
  | .modelPublicationStatus p => p.base

/-! ### Driving the output ports -/

/-- R19: every field output zero, with the given `result` and `name_id`. -/
def idlePorts (result : BitVec 3) (nameId : BitVec 5) : Ports :=
  { Ports.reset with result := result, nameId := nameId }

/-- R80: the base fields on the ports of a successful decode. -/
def basePorts (b : Base) (nameId : BitVec 5) : Ports :=
  { idlePorts 0 nameId with
    statusCode := b.statusCode, statusVariant := b.statusVariant, statusName := some b.statusCodeName,
    akfOut := b.akf, aidOut := b.aid }

/-- R17 to R19: the output ports for a result; the ports of the other kind carry zero. -/
def drivePorts (nameId : BitVec 5) : Result → Ports
  | .err k => idlePorts (errorCode k) nameId
  | .ok (.appKeyStatus a) =>
    { basePorts a.base nameId with netKeyIndex := a.netKeyIndex, appKeyIndex := a.appKeyIndex }
  | .ok (.modelPublicationStatus p) =>
    { basePorts p.base nameId with
      elementAddress := p.elementAddress, publishAddressB0 := p.publishAddressB0,
      publishAddressB1 := p.publishAddressB1, appKeyIndex := p.appKeyIndex,
      credentialFlag := p.credentialFlag, publishTtl := p.publishTtl, publishPeriod := p.publishPeriod,
      publishRetransmitCount := p.publishRetransmitCount,
      publishRetransmitIntervalSteps := p.publishRetransmitIntervalSteps,
      modelIdentifier := p.modelId.identifier, modelIdentifierIs32 := widthBit p.modelId.width }

/-- R149: delivering an error: `result` carries its code, every field output zero, and nothing else happens. There is
no return from it (R152). -/
def deliverError (s : State) (k : ErrorKind) : State :=
  { s with ports := drivePorts s.ports.nameId (.err k), returned := .err k }

/-- R18, R22: a successful decode on the ports. -/
def deliverMessage (s : State) (msg : ConfigStatusMessage) : State :=
  { s with ports := drivePorts s.ports.nameId (.ok msg), returned := .ok msg }

/-- The end of a transaction: the answer of the unit it addressed, which replaces whatever an earlier transaction had
there (R14). -/
def replying (s : State) (a : Answer) : State := { s with answer := a }

/-- The end of a transaction of a PDU: its message or its error is delivered, and the input ports and the buffer stay as
they are. -/
def deliver (s : State) : Result → State
  | .ok msg => deliverMessage s msg
  | .err k => deliverError s k

/-- An operation that yields a result ends in the state that delivers it, with the answer it gives on its own. -/
def commit (s : State) (reply : Result → Answer) : Except Fault Result → Host.Outcome State Fault Refusal
  | .ok r => .next (replying (deliver s r) (reply r))
  | .error f => .fault f

/-- The reply of an operation whose result is all on the ports. -/
def noReply : Result → Answer := fun _ => .silent

/-! ### Presenting the next transaction -/

/-- R16: the input ports once the words of a transaction are on the ports of the unit they address; the ports of the
other units keep their values (log 15). -/
def presentWords (lenW : Nat) (w : Words) (inp : Inputs) : Inputs :=
  match w.port with
  | .codeIn | .statusRow => { inp with codeIn := w.bytes.headD 0#8 }
  | .kidxA | .kidxB | .mid16 | .mid32 => inp
  | .midsel => { inp with path := .direct, kind := .modelPublicationStatus, len := leValue w.bytes }
  | .pdu | .base =>
    { inp with path := .direct, kind := kindOf (leValue w.bytes / 2 ^ lenW),
               len := leValue w.bytes % 2 ^ lenW }
  | .frontEnd =>
    match w.bytes with
    | o3 :: o2 :: o1 :: o0 :: rest =>
      { inp with path := .frontEnd, opcode := o3 ++ o2 ++ o1 ++ o0, len := leValue rest }
    | _ => inp

/-- Whether the unit takes a parameter buffer and the security fields (R28, R80). -/
def takesBuffer : Port → Bool
  | .midsel | .pdu | .base | .frontEnd => true
  | .codeIn | .statusRow | .kidxA | .kidxB | .mid16 | .mid32 => false

/-- R16: the `aid` port can carry the identifier of a transaction whose unit takes one (log 13). -/
def carried (prm : Params) (t : Transaction) : Bool :=
  !takesBuffer t.words.port || t.aidFits prm.aidW

/-- R15, R16: the caller puts its next transaction on the ports, and has the rest still to present. -/
def present (s : State) (t : Transaction) (rest : List Transaction) : State :=
  let inp := presentWords s.params.lenW t.words s.inputs
  if takesBuffer t.words.port then
    { s with pending := rest, inputs := { inp with akf := t.akf, aid := (aidPort s.params t.aid).toNat },
             mem := writeBytes s.mem 0 t.buffer }
  else { s with pending := rest, inputs := inp }

end Sys2Proof.Machine
end

