-- ==== Sys2Proof/Machine/AppKey.lean ====
section
/-! DEFINITION. The AppKey Status decoder (spec/43_appkey_status.md). -/

namespace Sys2Proof.Machine

/-- R100, R101: `DEC.APPKEY(akf, aid, P)`. The length check precedes every read (R145). -/
def decAppkey (prm : Params) (inp : Inputs) (m : Memory) (len : Nat) : Except Fault Result :=
  if len < akLen then .ok (.err .truncatedPdu)
  else if akLen < len ∧ prm.appkeyOverlength = .reject then .ok (.err .invalidLength)
  else do
    let base ← makeBase prm inp m len
    let p1 ← memRead m len 1
    let p2 ← memRead m len 2
    let p3 ← memRead m len 3
    let p4 ← memRead m len 4
    return .ok (.appKeyStatus { base := base, netKeyIndex := kidxA p1 p2, appKeyIndex := kidxB p3 p4 })

/-- R100: `DEC.APPKEY` on a buffer of `len` bytes. -/
def execDecAppkey (len : Nat) (s : State) : Host.Outcome State Fault Refusal :=
  commit s noReply (decAppkey s.params s.inputs s.mem len)

/-- R104: `PACK.AK5`, the inverse used in properties; no operation of the block. -/
def packAk5 (status : Byte) (net app : BitVec 12) : List Byte :=
  [status, net.extractLsb' 0 8, 0#4 ++ net.extractLsb' 8 4, app.extractLsb' 0 4 ++ 0#4, app.extractLsb' 4 8]

end Sys2Proof.Machine
end

