-- ==== Sys2Proof/Machine/ModelId.lean ====
section
/-! DEFINITION. The variable-width model-identifier extractor (spec/44_model_id_extract.md): the two assemblies
addressed on their own, and the choice between them by the length alone. -/

namespace Sys2Proof.Machine

/-- R110: `MID16 b0 b1`. -/
def execMid16 (b0 b1 : Byte) (s : State) : Host.Outcome State Fault Refusal :=
  .next (replying s (.mid16 (mid16 b0 b1)))

/-- R111: `MID32 b0 b1 b2 b3`. -/
def execMid32 (b0 b1 b2 b3 : Byte) (s : State) : Host.Outcome State Fault Refusal :=
  .next (replying s (.mid32 (mid32 b0 b1 b2 b3)))

/-- R112: `MIDSEL(len, P)`, for a length that has passed the check of `DEC.MODELPUB`. -/
def midsel (m : Memory) (len : Nat) : Except Fault ModelId :=
  if len = mpLenSig then do
    let b12 ← memRead m len 12
    let b13 ← memRead m len 13
    return { identifier := zext32 (mid16 b12 b13), width := .bits16 }
  else do
    let b12 ← memRead m len 12
    let b13 ← memRead m len 13
    let b14 ← memRead m len 14
    let b15 ← memRead m len 15
    return { identifier := mid32 b12 b13 b14 b15, width := .bits32 }

end Sys2Proof.Machine
end

