-- ==== Sys2Proof/Machine/ModelPub.lean ====
section
/-! DEFINITION. The Model Publication Status decoder (spec/45_model_publication_status.md), its two sub-formats, and
`MIDSEL`, which is reached through it (R112). -/

namespace Sys2Proof.Machine

/-- R120: `DEC.MODELPUB(akf, aid, P)`. The length check precedes every read (R145), and `P[10]` is read by nothing
(R28). -/
def decModelpub (prm : Params) (inp : Inputs) (m : Memory) (len : Nat) : Except Fault Result :=
  if len ≠ mpLenSig ∧ len ≠ mpLenVnd then .ok (.err .invalidLength)
  else do
    let base ← makeBase prm inp m len
    let p1 ← memRead m len 1
    let p2 ← memRead m len 2
    let p3 ← memRead m len 3
    let p4 ← memRead m len 4
    let p5 ← memRead m len 5
    let p6 ← memRead m len 6
    let p7 ← memRead m len 7
    let p8 ← memRead m len 8
    let p9 ← memRead m len 9
    let p11 ← memRead m len 11
    let modelId ← midsel m len
    return .ok (.modelPublicationStatus
      { base := base, elementAddress := word16 p1 p2, publishAddressB0 := p3, publishAddressB1 := p4,
        appKeyIndex := kidxA p5 p6, credentialFlag := highNibble p6, publishTtl := p7, publishPeriod := p8,
        publishRetransmitCount := topThree p9, publishRetransmitIntervalSteps := lowFive p11,
        modelId := modelId })

/-- R120, R123: `DEC.MODELPUB` on a buffer of `len` bytes. -/
def execDecModelpub (len : Nat) (s : State) : Host.Outcome State Fault Refusal :=
  commit s noReply (decModelpub s.params s.inputs s.mem len)

/-- R121: `DEC.MODELPUB.SIG`, which is `DEC.MODELPUB` with a length of 14. -/
def execDecModelpubSig (s : State) : Host.Outcome State Fault Refusal :=
  commit s noReply (decModelpub s.params s.inputs s.mem mpLenSig)

/-- R122: `DEC.MODELPUB.VND`, which is `DEC.MODELPUB` with a length of 16. -/
def execDecModelpubVnd (s : State) : Host.Outcome State Fault Refusal :=
  commit s noReply (decModelpub s.params s.inputs s.mem mpLenVnd)

/-- The model identifier of a result of `DEC.MODELPUB`; an error never reached `MIDSEL` (R112). -/
def midselOf : Result → Option ModelId
  | .ok (.modelPublicationStatus p) => some p.modelId
  | .ok (.appKeyStatus _) => none
  | .err _ => none

/-- R112: `MIDSEL` on a buffer of `len` bytes. The buffer stands at the ports of the block, so `DEC.MODELPUB` checks its
length first and its outputs follow (log 10, log 19); the reply is the answer of the unit. -/
def execMidsel (len : Nat) (s : State) : Host.Outcome State Fault Refusal :=
  commit s (fun r => .midsel (midselOf r)) (decModelpub s.params s.inputs s.mem len)

end Sys2Proof.Machine
end

