-- ==== Sys2Proof/Machine/Front.lean ====
section
/-! DEFINITION. The message base and the opcode front end (spec/41_message_base_dispatch.md), the block as one function
of its input ports (spec/10_state.md rule R15), and the step of a block that is presented nothing. -/

namespace Sys2Proof.Machine

/-- R81, R84: the decode contract on the direct path, by the declared kind. -/
def decodeKind (prm : Params) (inp : Inputs) (m : Memory) (kind : Kind) (len : Nat) : Except Fault Result :=
  match kind with
  | .appKeyStatus => decAppkey prm inp m len
  | .modelPublicationStatus => decModelpub prm inp m len

/-- R83: `DECODE(opcode, akf, aid, P)`. All 32 bits are compared (R60), and before the length is looked at (R146). -/
def decodeOpcode (prm : Params) (inp : Inputs) (m : Memory) (opcode : BitVec 32) (len : Nat) :
    Except Fault Result :=
  if opcode = prm.opcAppkeyStatus then decAppkey prm inp m len
  else if opcode = prm.opcModelPubStatus then decModelpub prm inp m len
  else .ok (.err .noDecoder)

/-- R83: `DECODE opcode` on a buffer of `len` bytes. -/
def execDecodeOp (opcode : BitVec 32) (len : Nat) (s : State) : Host.Outcome State Fault Refusal :=
  commit s noReply (decodeOpcode s.params s.inputs s.mem opcode len)

/-- R80: the base of a result; it is not evaluated where the decoder returned an error. -/
def baseAnswer : Result → Option Base
  | .ok msg => some (baseOf msg)
  | .err _ => none

/-- R80: `BASE` inside the decode of a buffer of `len` bytes as the given kind. The result of the selected decoder is an
operand of it, so that decoder runs and its outputs follow (log 10); the reply is the base. -/
def execBase (kind : Kind) (len : Nat) (s : State) : Host.Outcome State Fault Refusal :=
  commit s (fun r => .base (baseAnswer r)) (decodeKind s.params s.inputs s.mem kind len)

/-- R15: the result as a function of the parameters, the input ports and the buffer, and of nothing else. Which front it
follows is the model's input `path` (log 20). -/
def evaluate (prm : Params) (inp : Inputs) (m : Memory) : Except Fault Result :=
  match inp.path with
  | .direct => decodeKind prm inp m inp.kind inp.len
  | .frontEnd => decodeOpcode prm inp m inp.opcode inp.len

/-- R15: `Step : Params -> Inputs -> Outputs`, the whole block as one pure function. It takes no state. -/
def transact (prm : Params) (inp : Inputs) (m : Memory) : Except Fault Outputs := do
  let r ← evaluate prm inp m
  let name ← nameOf prm (variant inp.codeIn)
  return { returned := r, ports := drivePorts (variant inp.codeIn) r, lookupName := name }

/-- R15, R21, R74: the outputs settle to the function of the inputs present. The step of a block that the caller
presents no transaction to (log 8). -/
def settle (s : State) : Host.Outcome State Fault Refusal :=
  match transact s.params s.inputs s.mem with
  | .ok o => .next (replying { s with returned := o.returned, ports := o.ports, lookupName := o.lookupName } .silent)
  | .error f => .fault f

end Sys2Proof.Machine
end

