-- ==== Sys2Proof/Machine/KeyIndex.lean ====
section
/-! DEFINITION. The 12-bit key-index nibble unpacker (spec/42_key_index_unpack.md): `KIDX.A` and `KIDX.B` addressed on
their own. They read no memory and have no error (R28, R90, R91). -/

namespace Sys2Proof.Machine

/-- R90: `KIDX.A lo hi`. -/
def execKidxA (lo hi : Byte) (s : State) : Host.Outcome State Fault Refusal :=
  .next (replying s (.kidxA (kidxA lo hi)))

/-- R91: `KIDX.B lo hi`. -/
def execKidxB (lo hi : Byte) (s : State) : Host.Outcome State Fault Refusal :=
  .next (replying s (.kidxB (kidxB lo hi)))

/-- R93: `PACK.A`, the inverse used in properties; no operation of the block. -/
def packA (k : BitVec 12) : Byte × Byte := (k.extractLsb' 0 8, 0#4 ++ k.extractLsb' 8 4)

/-- R93: `PACK.B`, the inverse used in properties; no operation of the block. -/
def packB (k : BitVec 12) : Byte × Byte := (k.extractLsb' 0 4 ++ 0#4, k.extractLsb' 4 8)

end Sys2Proof.Machine
end

