-- ==== Sys2Proof/Machine/Lookup.lean ====
section
/-! DEFINITION. The status-code lookup table (spec/40_status_lookup.md): `LOOKUP` and the rows of its table. Each
row answers with the variant that the table gives it, and the generic operation with the variant function; that the two
agree is a statement about the model, not a definition of it. -/

namespace Sys2Proof.Machine

/-- R71, R74: the stand-alone lookup port shows a variant and the table's name for it. No input makes it fail in an
instance that R162 admits (R72), and nothing but `name_id` and the name changes; no other unit answers. -/
def showVariant (v : BitVec 5) (s : State) : Host.Outcome State Fault Refusal :=
  match nameOf s.params v with
  | .ok name => .next (replying { s with ports := { s.ports with nameId := v }, lookupName := name } .silent)
  | .error f => .fault f

/-- R71: `LOOKUP c`. -/
def execLookup (c : Byte) (s : State) : Host.Outcome State Fault Refusal := showVariant (variant c) s

/-- R70: row `STATUS.00`, code 0x00, variant 0. -/
def execStatus00 (s : State) : Host.Outcome State Fault Refusal := showVariant 0 s

/-- R70: row `STATUS.01`, code 0x01, variant 1. -/
def execStatus01 (s : State) : Host.Outcome State Fault Refusal := showVariant 1 s

/-- R70: row `STATUS.02`, code 0x02, variant 2. -/
def execStatus02 (s : State) : Host.Outcome State Fault Refusal := showVariant 2 s

/-- R70: row `STATUS.03`, code 0x03, variant 3. -/
def execStatus03 (s : State) : Host.Outcome State Fault Refusal := showVariant 3 s

/-- R70: row `STATUS.04`, code 0x04, variant 4. -/
def execStatus04 (s : State) : Host.Outcome State Fault Refusal := showVariant 4 s

/-- R70: row `STATUS.05`, code 0x05, variant 5. -/
def execStatus05 (s : State) : Host.Outcome State Fault Refusal := showVariant 5 s

/-- R70: row `STATUS.06`, code 0x06, variant 6. -/
def execStatus06 (s : State) : Host.Outcome State Fault Refusal := showVariant 6 s

/-- R70: row `STATUS.07`, code 0x07, variant 7. -/
def execStatus07 (s : State) : Host.Outcome State Fault Refusal := showVariant 7 s

/-- R70: row `STATUS.08`, code 0x08, variant 8. -/
def execStatus08 (s : State) : Host.Outcome State Fault Refusal := showVariant 8 s

/-- R70: row `STATUS.09`, code 0x09, variant 9. -/
def execStatus09 (s : State) : Host.Outcome State Fault Refusal := showVariant 9 s

/-- R70: row `STATUS.10`, code 0x0A, variant 10. -/
def execStatus10 (s : State) : Host.Outcome State Fault Refusal := showVariant 10 s

/-- R70: row `STATUS.11`, code 0x0B, variant 11. -/
def execStatus11 (s : State) : Host.Outcome State Fault Refusal := showVariant 11 s

/-- R70: row `STATUS.12`, code 0x0C, variant 12. -/
def execStatus12 (s : State) : Host.Outcome State Fault Refusal := showVariant 12 s

/-- R70: row `STATUS.13`, code 0x0D, variant 13. -/
def execStatus13 (s : State) : Host.Outcome State Fault Refusal := showVariant 13 s

/-- R70: row `STATUS.14`, code 0x0E, variant 14. -/
def execStatus14 (s : State) : Host.Outcome State Fault Refusal := showVariant 14 s

/-- R70: row `STATUS.15`, code 0x0F, variant 15. -/
def execStatus15 (s : State) : Host.Outcome State Fault Refusal := showVariant 15 s

/-- R70: row `STATUS.16`, code 0x10, variant 16. -/
def execStatus16 (s : State) : Host.Outcome State Fault Refusal := showVariant 16 s

/-- R70: row `STATUS.17`, code 0x11, variant 17. -/
def execStatus17 (s : State) : Host.Outcome State Fault Refusal := showVariant 17 s

/-- R70: row `STATUS.18`, code 0x12, variant 18. -/
def execStatus18 (s : State) : Host.Outcome State Fault Refusal := showVariant 18 s

/-- R54: row `STATUS.DEFAULT`, variant 18 for every code it is given. -/
def execStatusDefault (_c : Byte) (s : State) : Host.Outcome State Fault Refusal := showVariant rfuVariant s

end Sys2Proof.Machine
end

