-- ==== Sys2Proof/Machine/Dispatch.lean ====
section
/-! DEFINITION. The dispatch: one arm per operation, each one call of its meaning. -/

namespace Sys2Proof.Machine

def exec (i : Instr) (s : State) : Host.Outcome State Fault Refusal :=
  match i with
  | .lookup c => Sys2Proof.Machine.execLookup c s
  | .status00 => Sys2Proof.Machine.execStatus00 s
  | .status01 => Sys2Proof.Machine.execStatus01 s
  | .status02 => Sys2Proof.Machine.execStatus02 s
  | .status03 => Sys2Proof.Machine.execStatus03 s
  | .status04 => Sys2Proof.Machine.execStatus04 s
  | .status05 => Sys2Proof.Machine.execStatus05 s
  | .status06 => Sys2Proof.Machine.execStatus06 s
  | .status07 => Sys2Proof.Machine.execStatus07 s
  | .status08 => Sys2Proof.Machine.execStatus08 s
  | .status09 => Sys2Proof.Machine.execStatus09 s
  | .status10 => Sys2Proof.Machine.execStatus10 s
  | .status11 => Sys2Proof.Machine.execStatus11 s
  | .status12 => Sys2Proof.Machine.execStatus12 s
  | .status13 => Sys2Proof.Machine.execStatus13 s
  | .status14 => Sys2Proof.Machine.execStatus14 s
  | .status15 => Sys2Proof.Machine.execStatus15 s
  | .status16 => Sys2Proof.Machine.execStatus16 s
  | .status17 => Sys2Proof.Machine.execStatus17 s
  | .status18 => Sys2Proof.Machine.execStatus18 s
  | .statusDefault c => Sys2Proof.Machine.execStatusDefault c s
  | .kidxA lo hi => Sys2Proof.Machine.execKidxA lo hi s
  | .kidxB lo hi => Sys2Proof.Machine.execKidxB lo hi s
  | .mid16 b0 b1 => Sys2Proof.Machine.execMid16 b0 b1 s
  | .mid32 b0 b1 b2 b3 => Sys2Proof.Machine.execMid32 b0 b1 b2 b3 s
  | .midsel len => Sys2Proof.Machine.execMidsel len s
  | .decAppkey len => Sys2Proof.Machine.execDecAppkey len s
  | .decModelpub len => Sys2Proof.Machine.execDecModelpub len s
  | .decModelpubSig => Sys2Proof.Machine.execDecModelpubSig s
  | .decModelpubVnd => Sys2Proof.Machine.execDecModelpubVnd s
  | .base kind len => Sys2Proof.Machine.execBase kind len s
  | .decodeOp opcode len => Sys2Proof.Machine.execDecodeOp opcode len s

end Sys2Proof.Machine
end

