-- ==== Sys2Proof/Machine/Step.lean ====
section
/-! DEFINITION. One step: the caller's next transaction (spec/10_state.md rule R15), and how the host places one. -/

namespace Sys2Proof.Machine

/-- R15: one step is one transaction. Parameters that R162 does not admit are refused (log 12); a block that is
presented nothing settles (log 8); words that no port carries are refused by name (log 7), and so is an identifier that the
`aid` port does not carry (log 13). -/
def step (s : State) : Host.Outcome State Fault Refusal :=
  if instantiable s.params then
    match s.pending with
    | [] => settle s
    | t :: rest =>
      match decode s.params.lenW t.words with
      | .ok i => if carried s.params t then exec i (present s t rest) else .refused .aidTooWide
      | .error e => .refused (.undecodable e)
  else .refused .notInstantiable

/-- The state in which the caller has one transaction to present, the one that a word of the table stands for
(log 8, log 16). -/
def State.withFetchWord (s : State) (nbits w : Nat) : State :=
  match tableTransaction s.params.lenW nbits w with
  | none => s
  | some t => { s with pending := [t] }

end Sys2Proof.Machine
end

