-- ==== Sys2Proof/Safety.lean ====
section
/-! DEFINITION. What counts as a safe state of the block, and the terms claims use: the outputs are the function of the
inputs present, and nothing is left over from another transaction (spec/10_state.md rules R14, R15, R21,
spec/20_memory.md rule R39, spec/60_exceptions.md rule R152). -/

namespace Sys2Proof.Machine

/-- R15, R17 to R19, R21, R74: every output of the block is the function of the inputs present, for an instance that R162
admits, a buffer in canonical form and an identifier of `AID_W` bits. -/
structure Consistent (s : State) : Prop where
  instance_ok : instantiable s.params = true
  memory_wf   : s.mem.wf = true
  aid_fits    : s.inputs.aid < 2 ^ s.params.aidW
  transacted  : transact s.params s.inputs s.mem =
    .ok { returned := s.returned, ports := s.ports, lookupName := s.lookupName }

/-- A transaction whose words decode and whose identifier fits, the only ones the ports can carry (R16, R52, R63). -/
def presentable (prm : Params) (t : Transaction) : Bool :=
  match decode prm.lenW t.words with
  | .ok _ => carried prm t
  | .error _ => false

/-- `P[i]` as the unsigned number that the document's formulas compute with (R6). -/
def byteNat (s : State) (i : Nat) : Nat := (readMem s.mem i).toNat

/-- The number that the `aid` port of `AID_W` bits carries (R16, R80); `inputs.aid` itself where it is such a value. -/
def aidOf (s : State) : Nat := s.inputs.aid % 2 ^ s.params.aidW

/-- Two buffers with the same bytes below a length. -/
def SameBytes (len : Nat) (m m' : Memory) : Prop := ∀ i, i < len → readMem m i = readMem m' i

/-- The number `variant(c)` is said to equal (R71: "equivalently min(c, 18)"). -/
def variantNat (c : Byte) : Nat := min c.toNat 18

/-- The base record that R24 gives for a buffer of `len` bytes, with the name of its status code. -/
def baseFor (s : State) (len : Nat) (name : String) : Base where
  akf            := s.inputs.akf
  aid            := aidOf s
  parameters     := buffer s.mem len
  statusCode     := readMem s.mem 0
  statusVariant  := BitVec.ofNat 5 (variantNat (readMem s.mem 0))
  statusCodeName := name

/-- The ports of a successful decode before the fields of its kind: the base fields of R80 and zero elsewhere
(R19). -/
def okPorts (s : State) (name : String) : Ports :=
  { Ports.reset with
    statusCode := readMem s.mem 0, statusVariant := BitVec.ofNat 5 (variantNat (readMem s.mem 0)),
    statusName := some name, akfOut := s.inputs.akf, aidOut := aidOf s,
    result := 0, nameId := s.ports.nameId }

/-- R19: every field output but `name_id` carries zero. -/
def fieldsZero (p : Ports) : Prop :=
  p.statusCode = 0 ∧ p.statusVariant = 0 ∧ p.statusName = none ∧ p.netKeyIndex = 0 ∧ p.appKeyIndex = 0 ∧
  p.elementAddress = 0 ∧ p.publishAddressB0 = 0 ∧ p.publishAddressB1 = 0 ∧ p.credentialFlag = 0 ∧
  p.publishTtl = 0 ∧ p.publishPeriod = 0 ∧ p.publishRetransmitCount = 0 ∧
  p.publishRetransmitIntervalSteps = 0 ∧ p.modelIdentifier = 0 ∧ p.modelIdentifierIs32 = 0 ∧
  p.akfOut = 0 ∧ p.aidOut = 0

/-- The operations that decode a PDU, each with the length of its buffer. -/
def pduLen : Instr → Option Nat
  | .midsel len => some len
  | .decAppkey len => some len
  | .decModelpub len => some len
  | .decModelpubSig => some 14
  | .decModelpubVnd => some 16
  | .base _ len => some len
  | .decodeOp _ len => some len
  | _ => none

/-- The rows of the status table (R70) with the code each one enumerates. -/
def statusRows : List (Instr × Nat) :=
  [(.status00, 0), (.status01, 1), (.status02, 2), (.status03, 3), (.status04, 4), (.status05, 5),
   (.status06, 6), (.status07, 7), (.status08, 8), (.status09, 9)] ++
  [(.status10, 10), (.status11, 11), (.status12, 12), (.status13, 13), (.status14, 14), (.status15, 15),
   (.status16, 16), (.status17, 17), (.status18, 18)]

/-- The common prefix that R120 gives a Model Publication Status message, in the document's arithmetic. -/
structure PrefixOf (s : State) (p : ModelPublicationStatus) : Prop where
  elementAddress   : p.elementAddress.toNat = (byteNat s 2 <<< 8) ||| byteNat s 1
  publishAddressB0 : p.publishAddressB0 = readMem s.mem 3
  publishAddressB1 : p.publishAddressB1 = readMem s.mem 4
  appKeyIndex      : p.appKeyIndex.toNat = ((byteNat s 6 &&& 0x0F) <<< 8) ||| byteNat s 5
  credentialFlag   : p.credentialFlag.toNat = (byteNat s 6 &&& 0xF0) >>> 4
  publishTtl       : p.publishTtl = readMem s.mem 7
  publishPeriod    : p.publishPeriod = readMem s.mem 8
  retransmitCount  : p.publishRetransmitCount.toNat = byteNat s 9 >>> 5
  intervalSteps    : p.publishRetransmitIntervalSteps.toNat = byteNat s 11 &&& 0x1F

/-- The ports that R120 drives for a Model Publication Status message, `net_key_index` left at zero. -/
def pubPorts (s : State) (name : String) (p : ModelPublicationStatus) (is32 : BitVec 1) : Ports :=
  { okPorts s name with
    elementAddress := p.elementAddress, publishAddressB0 := p.publishAddressB0,
    publishAddressB1 := p.publishAddressB1, appKeyIndex := p.appKeyIndex,
    credentialFlag := p.credentialFlag, publishTtl := p.publishTtl, publishPeriod := p.publishPeriod,
    publishRetransmitCount := p.publishRetransmitCount,
    publishRetransmitIntervalSteps := p.publishRetransmitIntervalSteps,
    modelIdentifier := p.modelId.identifier, modelIdentifierIs32 := is32 }

/-- The state in which an error is delivered: the code on `result`, zero on every field, no unit's answer, nothing else
changed. -/
def errorState (s : State) (k : ErrorKind) (code : BitVec 3) : State :=
  { s with returned := .err k, ports := { Ports.reset with result := code, nameId := s.ports.nameId }, answer := .silent }

/-- R147: the lengths for which the declared kind has a format. -/
def accepts (prm : Params) : Kind → Nat → Bool
  | .appKeyStatus, len => decide (len = 5) || (decide (5 < len) && decide (prm.appkeyOverlength = .ignoreTail))
  | .modelPublicationStatus, len => decide (len = 14) || decide (len = 16)

/-- R84, R83: the kind that the input ports declare, none for an opcode with no decoder. -/
def declaredKind (prm : Params) (inp : Inputs) : Option Kind :=
  match inp.path with
  | .direct => some inp.kind
  | .frontEnd =>
    if inp.opcode = prm.opcAppkeyStatus then some .appKeyStatus
    else if inp.opcode = prm.opcModelPubStatus then some .modelPublicationStatus
    else none

/-- R83: the opcode constant of a kind. -/
def opcodeOf (prm : Params) : Kind → BitVec 32
  | .appKeyStatus => prm.opcAppkeyStatus
  | .modelPublicationStatus => prm.opcModelPubStatus

/-- The decoder of a kind on a buffer of `len` bytes. -/
def decoderOf : Kind → Nat → Instr
  | .appKeyStatus, len => .decAppkey len
  | .modelPublicationStatus, len => .decModelpub len

/-- The operations of which the document says that they decode an AppKey Status buffer of `len` bytes. -/
def decodesAppKey (prm : Params) (len : Nat) (i : Instr) : Prop :=
  i = .decAppkey len ∨ i = .base .appKeyStatus len ∨ i = .decodeOp prm.opcAppkeyStatus len

end Sys2Proof.Machine
end

