-- ==== Sys2Proof/Certificates/Slice0/Obligations.lean ====
section
/-! DEFINITION. The statements about this block, from the numbered rules of spec/. Where a statement names the place in
which the model holds an answer that has no port (`answer`, log 10) or a choice of the words (log 7), that part is the
model's own, and its docstring says so. -/

open Sys2Proof Sys2Proof.Machine

/-! ### The status-code lookup -/

/-- R71: `LOOKUP(c) = (variant(c), NAME_TABLE[variant(c)])`, for every byte and with no error; nothing but `name_id` and the
name changes. -/
def Obligations.LookupAnswersVariantAndName : Prop :=
  ∀ (s : State) (c : Byte), instantiable s.params = true →
    ∃ name, s.params.nameTable[variantNat c]? = some name ∧
      exec (.lookup c) s = .next { s with
        ports := { s.ports with nameId := BitVec.ofNat 5 (variantNat c) }, lookupName := name, answer := .silent }

/-- The rows of the status table one by one: each answers with its own entry, and as the lookup of its code does. The numbering
of the variants is the spec's own (D21). -/
def Obligations.StatusRowsAnswerTheirEntry : Prop :=
  ∀ (s : State) (row : Instr) (code : Nat), instantiable s.params = true → (row, code) ∈ statusRows →
    ∃ name, s.params.nameTable[code]? = some name ∧
      exec row s = .next { s with
        ports := { s.ports with nameId := BitVec.ofNat 5 code }, lookupName := name, answer := .silent } ∧
      exec (.lookup (BitVec.ofNat 8 code)) s = exec row s

/-- The default arm: for a code from 0x13 on it answers variant 18 and "RFU", and so do the lookup of that code and the row of
code 0x12 (the spec's decisions D7, D8 and D21). -/
def Obligations.DefaultArmAnswersReserved : Prop :=
  ∀ (s : State) (c : Byte), instantiable s.params = true → 0x13 ≤ c.toNat →
    exec (.statusDefault c) s = .next { s with
      ports := { s.ports with nameId := 18 }, lookupName := "RFU", answer := .silent } ∧
    exec (.lookup c) s = exec (.statusDefault c) s ∧ exec .status18 s = exec (.statusDefault c) s

/-- R54: the three-way partition of the 256 codes, in what a code answers and in the row it selects. That the rows are addressed
at a unit of their own is the model's (log 6). -/
def Obligations.StatusCodesSelectRows : Prop :=
  (∀ (s : State) (c : Byte), instantiable s.params = true →
    ∃ t, exec (.lookup c) s = .next t ∧
      (c.toNat ≤ 0x11 → t.ports.nameId.toNat = c.toNat) ∧
      (c.toNat = 0x12 → t.ports.nameId.toNat = 18 ∧ t.lookupName = "RFU") ∧
      (0x13 ≤ c.toNat → t.ports.nameId.toNat = 18 ∧ t.lookupName = "RFU")) ∧
  (∀ (lenW : Nat) (row : Instr) (code : Nat), (row, code) ∈ statusRows →
    decode lenW ⟨.statusRow, [BitVec.ofNat 8 code]⟩ = .ok row) ∧
  (∀ (lenW : Nat) (c : Byte), 0x13 ≤ c.toNat → decode lenW ⟨.statusRow, [c]⟩ = .ok (.statusDefault c))

/-- The two names the source fixes: every instance answers "Success" for code 0 and "RFU" for every code from 0x12 on (R73, the
spec's decision D8). -/
def Obligations.FixedNamesAreAnswered : Prop :=
  ∀ (s : State) (c : Byte), instantiable s.params = true →
    ∃ t, exec (.lookup c) s = .next t ∧
      (c = 0 → t.lookupName = "Success") ∧ (0x12 ≤ c.toNat → t.lookupName = "RFU")

/-- The variant function is bounded by 18, is the identity exactly up to 18, and is 18 exactly from 18 on. -/
def Obligations.VariantIsTheSmallerOfCodeAndEighteen : Prop :=
  ∀ c : Byte, (variant c).toNat ≤ 18 ∧ ((variant c).toNat = c.toNat ↔ c.toNat ≤ 18) ∧
    ((variant c).toNat = 18 ↔ 18 ≤ c.toNat)

/-! ### The key-index unpacker -/

/-- R90: `KIDX.A(lo, hi) = ((hi & 0x0F) << 8) | lo`, at most 4095 (R92), with no error. That the answer is held in
`answer` is the model's (log 10). -/
def Obligations.KidxAAssemblesLowNibbleAboveByte : Prop :=
  ∀ (s : State) (lo hi : Byte), ∃ k : BitVec 12,
    k.toNat = ((hi.toNat &&& 0x0F) <<< 8) ||| lo.toNat ∧ k.toNat ≤ 4095 ∧
    exec (.kidxA lo hi) s = .next { s with answer := .kidxA k }

/-- R91: `KIDX.B(lo, hi) = (hi << 4) | (lo >> 4)`, which is the document's longer formula, with and without truncation of
`hi << 4` to eight bits; at most 4095 (R92). That the answer is held in `answer` is the model's (log 10). -/
def Obligations.KidxBAssemblesByteAboveHighNibble : Prop :=
  ∀ (s : State) (lo hi : Byte), ∃ k : BitVec 12,
    k.toNat = (hi.toNat <<< 4) ||| (lo.toNat >>> 4) ∧
    k.toNat = (((hi.toNat &&& 0xF0) >>> 4) <<< 8) ||| ((hi.toNat <<< 4) ||| ((lo.toNat &&& 0xF0) >>> 4)) ∧
    k.toNat = (((hi.toNat &&& 0xF0) >>> 4) <<< 8) |||
      (((hi.toNat <<< 4) % 256) ||| ((lo.toNat &&& 0xF0) >>> 4)) ∧
    k.toNat ≤ 4095 ∧
    exec (.kidxB lo hi) s = .next { s with answer := .kidxB k }

/-- The inverse packings: unpacking a packed index gives it back, and packing an unpacked pair gives it back with the unread
nibble cleared (R93, the spec's own inference from R90 and R91). -/
def Obligations.KeyIndexPackingInverts : Prop :=
  (∀ (s : State) (k : BitVec 12),
    (packA k).1.toNat = k.toNat &&& 0xFF ∧ (packA k).2.toNat = k.toNat >>> 8 ∧
    (packB k).1.toNat = (k.toNat &&& 0x0F) <<< 4 ∧ (packB k).2.toNat = k.toNat >>> 4 ∧
    exec (.kidxA (packA k).1 (packA k).2) s = .next { s with answer := .kidxA k } ∧
    exec (.kidxB (packB k).1 (packB k).2) s = .next { s with answer := .kidxB k }) ∧
  (∀ lo hi : Byte, packA (kidxA lo hi) = (lo, hi &&& 0x0F#8) ∧ packB (kidxB lo hi) = (lo &&& 0xF0#8, hi))

/-! ### The model-identifier extractor -/

/-- R110: `MID16(b0, b1) = (b1 << 8) | b0`. That the answer is held in `answer` is the model's (log 10). -/
def Obligations.MidSixteenIsLittleEndian : Prop :=
  ∀ (s : State) (b0 b1 : Byte), ∃ v : BitVec 16,
    v.toNat = (b1.toNat <<< 8) ||| b0.toNat ∧
    exec (.mid16 b0 b1) s = .next { s with answer := .mid16 v }

/-- R111: `MID32(b0, b1, b2, b3) = (b1 << 24) | (b0 << 16) | (b3 << 8) | b2`, two `MID16` halves with the first pair above. That
the answer is held in `answer` is the model's (log 10). -/
def Obligations.MidThirtyTwoPutsFirstPairAbove : Prop :=
  ∀ (s : State) (b0 b1 b2 b3 : Byte), ∃ v : BitVec 32,
    v.toNat = (b1.toNat <<< 24) ||| (b0.toNat <<< 16) ||| (b3.toNat <<< 8) ||| b2.toNat ∧
    v.toNat = ((mid16 b0 b1).toNat <<< 16) ||| (mid16 b2 b3).toNat ∧
    exec (.mid32 b0 b1 b2 b3) s = .next { s with answer := .mid32 v }

/-- Both assemblies are bijections, with the inverses the spec names (R113, its own inference from R110 and R111). -/
def Obligations.ModelIdAssembliesRoundTrip : Prop :=
  (∀ (s : State) (v : BitVec 16),
    exec (.mid16 (BitVec.ofNat 8 (v.toNat &&& 0xFF)) (BitVec.ofNat 8 (v.toNat >>> 8))) s =
      .next { s with answer := .mid16 v }) ∧
  (∀ (s : State) (v : BitVec 32),
    exec (.mid32 (BitVec.ofNat 8 ((v.toNat >>> 16) &&& 0xFF)) (BitVec.ofNat 8 (v.toNat >>> 24))
      (BitVec.ofNat 8 (v.toNat &&& 0xFF)) (BitVec.ofNat 8 ((v.toNat >>> 8) &&& 0xFF))) s =
      .next { s with answer := .mid32 v }) ∧
  (∀ b0 b1 c0 c1 : Byte, mid16 b0 b1 = mid16 c0 c1 → b0 = c0 ∧ b1 = c1) ∧
  (∀ b0 b1 b2 b3 c0 c1 c2 c3 : Byte, mid32 b0 b1 b2 b3 = mid32 c0 c1 c2 c3 →
    b0 = c0 ∧ b1 = c1 ∧ b2 = c2 ∧ b3 = c3)

/-- `MIDSEL` by the length alone: 14 gives the zero-extended 16-bit identifier, 16 the 32-bit one, and the outputs are those of
`DEC.MODELPUB` on the same buffer (R112, whose zero extension and width port are D27 and D28; log 10). -/
def Obligations.MidselChoosesByLength : Prop :=
  ∀ s : State, instantiable s.params = true →
    (∃ t v, exec (.decModelpub 14) s = .next t ∧ v.toNat = (byteNat s 13 <<< 8) ||| byteNat s 12 ∧
      exec (.midsel 14) s = .next { t with answer := .midsel (some ⟨v, .bits16⟩) } ∧
      t.ports.modelIdentifier = v ∧ t.ports.modelIdentifierIs32 = 0) ∧
    (∃ t v, exec (.decModelpub 16) s = .next t ∧
      v.toNat = (byteNat s 13 <<< 24) ||| (byteNat s 12 <<< 16) ||| (byteNat s 15 <<< 8) ||| byteNat s 14 ∧
      exec (.midsel 16) s = .next { t with answer := .midsel (some ⟨v, .bits32⟩) } ∧
      t.ports.modelIdentifier = v ∧ t.ports.modelIdentifierIs32 = 1)

/-- A length other than 14 and 16 never reaches `MIDSEL`: the decoder turns it away with `InvalidLength` (table row
`MIDSEL`; log 19). -/
def Obligations.MidselTurnedAwayOnOtherLengths : Prop :=
  ∀ (s : State) (len : Nat), len ≠ 14 → len ≠ 16 →
    exec (.midsel len) s =
      .next { errorState s .invalidLength 2 with answer := .midsel none }

/-! ### The AppKey Status decoder -/

/-- R100 without its arm for longer buffers (the next statement): a buffer shorter than 5 bytes is `TruncatedPdu`, and one of 5
bytes decodes to its status code and two indices, on the record and on the ports, every other field port zero (D6) and
everything else as it was. -/
def Obligations.AppKeyStatusDecoded : Prop :=
  ∀ s : State, instantiable s.params = true →
    (∀ len, len < 5 → exec (.decAppkey len) s = .next (errorState s .truncatedPdu 1)) ∧
    (∃ (name : String) (n a : BitVec 12),
      s.params.nameTable[variantNat (readMem s.mem 0)]? = some name ∧
      n.toNat = ((byteNat s 2 &&& 0x0F) <<< 8) ||| byteNat s 1 ∧
      a.toNat = (byteNat s 4 <<< 4) ||| (byteNat s 3 >>> 4) ∧
      exec (.decAppkey 5) s = .next { s with
        returned := .ok (.appKeyStatus ⟨baseFor s 5 name, n, a⟩)
        ports := { okPorts s name with netKeyIndex := n, appKeyIndex := a }
        answer := .silent })

/-- A buffer longer than 5 bytes, for both values of `APPKEY_OVERLENGTH` (R101, the spec's decision D10): rejected, or decoded
from its first 5 bytes with the whole buffer as its raw parameters. -/
def Obligations.AppKeyOverlengthByParameter : Prop :=
  ∀ (s : State) (len : Nat), instantiable s.params = true → 5 < len →
    (s.params.appkeyOverlength = .reject →
      exec (.decAppkey len) s = .next (errorState s .invalidLength 2)) ∧
    (s.params.appkeyOverlength = .ignoreTail →
      ∃ (name : String) (n a : BitVec 12),
        s.params.nameTable[variantNat (readMem s.mem 0)]? = some name ∧
        n.toNat = ((byteNat s 2 &&& 0x0F) <<< 8) ||| byteNat s 1 ∧
        a.toNat = (byteNat s 4 <<< 4) ||| (byteNat s 3 >>> 4) ∧
        exec (.decAppkey len) s = .next { s with
          returned := .ok (.appKeyStatus ⟨baseFor s len name, n, a⟩)
          ports := { okPorts s name with netKeyIndex := n, appKeyIndex := a }
          answer := .silent })

/-- R140: `TruncatedPdu` is the outcome exactly of decoding an AppKey Status buffer shorter than 5 bytes, whichever
operation decodes it; `result` then carries 1 and nothing else is recorded. -/
def Obligations.TruncatedPduExactlyForShortAppKey : Prop :=
  ∀ (i : Instr) (s t : State) (len : Nat), pduLen i = some len → exec i s = .next t →
    (t.returned = .err .truncatedPdu ↔ decodesAppKey s.params len i ∧ len < 5) ∧
    (t.returned = .err .truncatedPdu → t.ports.result = 1 ∧ fieldsZero t.ports)

/-- The two directions of the AK5 round trip, in the masked form the spec gives it (R104, its own inference): a buffer that
packs three fields decodes to them, and packing what a buffer decodes to gives it back with the ignored nibbles
cleared. -/
def Obligations.AppKeyPackingRoundTrips : Prop :=
  (∀ (s : State) (st : Byte) (n a : BitVec 12), instantiable s.params = true →
    (∀ i, i < 5 → (packAk5 st n a)[i]? = some (readMem s.mem i)) →
    ∃ t b, exec (.decAppkey 5) s = .next t ∧ t.returned = .ok (.appKeyStatus ⟨b, n, a⟩) ∧ b.statusCode = st) ∧
  (∀ (s t : State) (m : AppKeyStatus), exec (.decAppkey 5) s = .next t → t.returned = .ok (.appKeyStatus m) →
    packAk5 m.base.statusCode m.netKeyIndex m.appKeyIndex =
      [readMem s.mem 0, readMem s.mem 1, readMem s.mem 2 &&& 0x0F#8, readMem s.mem 3 &&& 0xF0#8,
       readMem s.mem 4])

/-! ### The Model Publication Status decoder -/

/-- R120, R121: a 14-byte buffer decodes to its eleven fields with a 16-bit identifier, at the parent row and at
`DEC.MODELPUB.SIG`, on the record and on the ports. -/
def Obligations.ModelPubSigDecoded : Prop :=
  ∀ (s : State) (i : Instr), instantiable s.params = true → (i = .decModelpub 14 ∨ i = .decModelpubSig) →
    ∃ (name : String) (p : ModelPublicationStatus),
      s.params.nameTable[variantNat (readMem s.mem 0)]? = some name ∧
      p.base = baseFor s 14 name ∧ PrefixOf s p ∧
      p.modelId.identifier.toNat = (byteNat s 13 <<< 8) ||| byteNat s 12 ∧ p.modelId.width = .bits16 ∧
      exec i s = .next { s with
        returned := .ok (.modelPublicationStatus p), ports := pubPorts s name p 0, answer := .silent }

/-- R120, R122: a 16-byte buffer decodes to its eleven fields with a 32-bit identifier, at the parent row and at
`DEC.MODELPUB.VND`, on the record and on the ports. -/
def Obligations.ModelPubVndDecoded : Prop :=
  ∀ (s : State) (i : Instr), instantiable s.params = true → (i = .decModelpub 16 ∨ i = .decModelpubVnd) →
    ∃ (name : String) (p : ModelPublicationStatus),
      s.params.nameTable[variantNat (readMem s.mem 0)]? = some name ∧
      p.base = baseFor s 16 name ∧ PrefixOf s p ∧
      p.modelId.identifier.toNat =
        (byteNat s 13 <<< 24) ||| (byteNat s 12 <<< 16) ||| (byteNat s 15 <<< 8) ||| byteNat s 14 ∧
      p.modelId.width = .bits32 ∧
      exec i s = .next { s with
        returned := .ok (.modelPublicationStatus p), ports := pubPorts s name p 1, answer := .silent }

/-- R120 as a whole: the two accepted lengths decode to the common prefix and the identifier that `MIDSEL` chooses, on the
record and on the ports, and every other length is `InvalidLength`, whatever the buffer holds. -/
def Obligations.ModelPubDecodedOrInvalidLength : Prop :=
  ∀ (s : State) (len : Nat),
    (instantiable s.params = true → len = 14 ∨ len = 16 →
      ∃ (name : String) (p : ModelPublicationStatus),
        s.params.nameTable[variantNat (readMem s.mem 0)]? = some name ∧
        p.base = baseFor s len name ∧ PrefixOf s p ∧ midsel s.mem len = .ok p.modelId ∧
        exec (.decModelpub len) s = .next { s with
          returned := .ok (.modelPublicationStatus p),
          ports := pubPorts s name p (widthBit p.modelId.width), answer := .silent }) ∧
    (len ≠ 14 → len ≠ 16 → exec (.decModelpub len) s = .next (errorState s .invalidLength 2))

/-- R127: the width of the identifier is told by the length of the buffer. -/
def Obligations.ModelIdWidthFollowsLength : Prop :=
  ∀ (s : State) (len : Nat), instantiable s.params = true →
    ∃ t, exec (.decModelpub len) s = .next t ∧
      (len = 14 → ∃ p, t.returned = .ok (.modelPublicationStatus p) ∧ widthNumber p.modelId.width = 16) ∧
      (len = 16 → ∃ p, t.returned = .ok (.modelPublicationStatus p) ∧ widthNumber p.modelId.width = 32) ∧
      (len ≠ 14 ∧ len ≠ 16 → t.returned = .err .invalidLength)

/-- The 16-byte buffer that extends a 14-byte one agrees with it in every field but the identifier, whose upper half is then
the whole 16-bit identifier of the shorter one (R125 and R49, the spec's own inferences). -/
def Obligations.LongerBufferKeepsEveryOtherField : Prop :=
  ∀ s : State, instantiable s.params = true →
    ∃ t t' p p', exec .decModelpubSig s = .next t ∧ exec .decModelpubVnd s = .next t' ∧
      t.returned = .ok (.modelPublicationStatus p) ∧ t'.returned = .ok (.modelPublicationStatus p') ∧
      p' = { p with base := p'.base, modelId := p'.modelId } ∧
      p'.base = { p.base with parameters := buffer s.mem 16 } ∧
      p'.modelId.identifier.toNat >>> 16 = p.modelId.identifier.toNat ∧
      p.modelId.identifier.toNat ≤ 0xFFFF

/-! ### The base and the front end -/

/-- R24: the base of every decoded message is the security fields, the buffer unchanged, the byte `P[0]` and the two results
of its lookup, whichever operation decoded it. -/
def Obligations.EveryMessageCarriesItsBase : Prop :=
  ∀ (i : Instr) (s t : State) (len : Nat) (msg : ConfigStatusMessage), pduLen i = some len →
    exec i s = .next t → t.returned = .ok msg →
    ∃ name, s.params.nameTable[variantNat (readMem s.mem 0)]? = some name ∧
      baseOf msg = baseFor s len name

/-- `BASE` of a buffer that its kind accepts: the base record, beside the outputs of the selected decoder, which carry the
same fields on their ports (R80, whose width of `aid` is D16; that the decoder's outputs follow and that the record is held
in `answer` is the model's, log 10). -/
def Obligations.BaseOfAnAcceptedBuffer : Prop :=
  ∀ (s : State) (kind : Kind) (len : Nat), instantiable s.params = true → accepts s.params kind len = true →
    ∃ t name, exec (decoderOf kind len) s = .next t ∧
      s.params.nameTable[variantNat (readMem s.mem 0)]? = some name ∧
      exec (.base kind len) s = .next { t with answer := .base (some (baseFor s len name)) } ∧
      t.ports.result = 0 ∧ t.ports.akfOut = s.inputs.akf ∧ t.ports.aidOut = aidOf s ∧
      t.ports.statusCode = readMem s.mem 0 ∧
      t.ports.statusVariant.toNat = variantNat (readMem s.mem 0) ∧ t.ports.statusName = some name

/-- The identifier has `AID_W` bits at its ports: `aid_out` and the base never carry more, a value that the `aid` port carries
passes through unchanged, and a transaction with any other is refused (R16, R18, R80, whose width is D16; the refusal is the
model's, log 13). -/
def Obligations.AidPassesAtItsWidth : Prop :=
  (∀ (i : Instr) (s t : State) (len : Nat), pduLen i = some len → exec i s = .next t →
    t.ports.aidOut < 2 ^ s.params.aidW ∧
    (∀ msg, t.returned = .ok msg → t.ports.aidOut = (baseOf msg).aid ∧ (baseOf msg).aid = aidOf s ∧
      (s.inputs.aid < 2 ^ s.params.aidW → t.ports.aidOut = s.inputs.aid))) ∧
  (∀ (s : State) (t : Transaction) (rest : List Transaction) (i : Instr), instantiable s.params = true →
    s.pending = t :: rest → decode s.params.lenW t.words = .ok i → takesBuffer t.words.port = true →
    2 ^ s.params.aidW ≤ t.aid → step s = .refused .aidTooWide)

/-- `BASE` is not evaluated where the selected decoder returns an error: no record, and zero on every field port (R80). -/
def Obligations.BaseNotEvaluatedOnError : Prop :=
  ∀ (s : State) (kind : Kind) (len : Nat), accepts s.params kind len = false →
    ∃ t k, exec (decoderOf kind len) s = .next t ∧ t.returned = .err k ∧
      exec (.base kind len) s = .next { t with answer := .base none } ∧
      fieldsZero t.ports

/-- `DECODE` compares all 32 bits with the two constants, before the length is looked at: it is the AppKey Status decoder, the
Model Publication Status decoder, or `NoDecoder` (R83, whose constants and error kind are D3 and D4). -/
def Obligations.DecodeSelectsByOpcode : Prop :=
  ∀ (s : State) (opcode : BitVec 32) (len : Nat), instantiable s.params = true →
    (opcode = s.params.opcAppkeyStatus → exec (.decodeOp opcode len) s = exec (.decAppkey len) s) ∧
    (opcode = s.params.opcModelPubStatus → exec (.decodeOp opcode len) s = exec (.decModelpub len) s) ∧
    (opcode ≠ s.params.opcAppkeyStatus → opcode ≠ s.params.opcModelPubStatus →
      exec (.decodeOp opcode len) s = .next (errorState s .noDecoder 4))

/-- `DECODE` with each of the two constants completes with the message of its kind on the lengths that kind accepts. -/
def Obligations.DecodeCompletesForBothConstants : Prop :=
  ∀ s : State, instantiable s.params = true →
    (∃ t b n a, exec (.decodeOp s.params.opcAppkeyStatus 5) s = .next t ∧
      t.returned = .ok (.appKeyStatus ⟨b, n, a⟩) ∧ t.ports.result = 0 ∧
      t.ports.netKeyIndex.toNat = ((byteNat s 2 &&& 0x0F) <<< 8) ||| byteNat s 1 ∧
      t.ports.appKeyIndex.toNat = (byteNat s 4 <<< 4) ||| (byteNat s 3 >>> 4)) ∧
    (∀ len, len = 14 ∨ len = 16 → ∃ t p, exec (.decodeOp s.params.opcModelPubStatus len) s = .next t ∧
      t.returned = .ok (.modelPublicationStatus p) ∧ PrefixOf s p ∧ t.ports.result = 0 ∧
      (len = 14 → widthNumber p.modelId.width = 16) ∧ (len = 16 → widthNumber p.modelId.width = 32))

/-- The two paths agree: the same buffer presented with the `kind` port and with the opcode constant of that kind gives the
same result and the same ports (R84, the spec's own inference; the layout of the words and the input `path` that tells the two
fronts apart are the model's, log 7, log 20). -/
def Obligations.DirectAndOpcodePathsAgree : Prop :=
  ∀ (s u v : State) (t t' : Transaction) (kind : Kind) (len : Nat), len < 2 ^ s.params.lenW →
    t.words = ⟨.pdu, leBytes (selBytes s.params.lenW) (selWord s.params.lenW kind len)⟩ →
    t'.words = encode s.params.lenW (.decodeOp (opcodeOf s.params kind) len) →
    t.buffer = t'.buffer → t.akf = t'.akf → t.aid = t'.aid →
    step { s with pending := [t] } = .next u → step { s with pending := [t'] } = .next v →
    u.returned = v.returned ∧ u.ports = v.ports ∧ u.answer = v.answer

/-! ### Outcomes and errors -/

/-- The complete table of outcomes of a decode, as one function of the input ports: every instance has exactly one outcome for
them, and which one it is depends on the declared kind, the length and `APPKEY_OVERLENGTH` alone (R147, the spec's own
inference, with D4, D10 and D11; its row of the stand-alone `LOOKUP` is LookupAnswersVariantAndName). That the input ports tell
which front declares the kind is the model's choice: they hold its own input `path` (log 20). -/
def Obligations.OutcomeTableIsComplete : Prop :=
  ∀ (prm : Params) (inp : Inputs) (m : Memory), instantiable prm = true →
    ∃ r, evaluate prm inp m = .ok r ∧
      (declaredKind prm inp = none → r = .err .noDecoder) ∧
      (declaredKind prm inp = some .appKeyStatus →
        (inp.len < 5 → r = .err .truncatedPdu) ∧
        (inp.len = 5 → ∃ a, r = .ok (.appKeyStatus a)) ∧
        (5 < inp.len → prm.appkeyOverlength = .reject → r = .err .invalidLength) ∧
        (5 < inp.len → prm.appkeyOverlength = .ignoreTail → ∃ a, r = .ok (.appKeyStatus a))) ∧
      (declaredKind prm inp = some .modelPublicationStatus →
        (inp.len = 14 → ∃ p, r = .ok (.modelPublicationStatus p) ∧ p.modelId.width = .bits16) ∧
        (inp.len = 16 → ∃ p, r = .ok (.modelPublicationStatus p) ∧ p.modelId.width = .bits32) ∧
        (inp.len ≠ 14 → inp.len ≠ 16 → r = .err .invalidLength))

/-- R76: the status code decides neither whether a decode fails nor how the rest of the buffer is decoded: two buffers that
differ in byte 0 alone give the same error, or the same message but for the status in its base. -/
def Obligations.StatusCodeGatesNothing : Prop :=
  ∀ (i : Instr) (s t t' : State) (m : Memory) (len : Nat), pduLen i = some len →
    (∀ j, j ≠ 0 → readMem m j = readMem s.mem j) →
    exec i s = .next t → exec i { s with mem := m } = .next t' →
    t'.ports = { t.ports with statusCode := t'.ports.statusCode, statusVariant := t'.ports.statusVariant,
                              statusName := t'.ports.statusName } ∧
    (∀ k, t.returned = .err k ↔ t'.returned = .err k)

/-- R149: when a decode ends in an error, `result` carries its code and every field output zero, and the caller's inputs, the
buffer, the parameters and the lookup are as they were; no unit answers with a value. -/
def Obligations.ErrorDeliveredAlone : Prop :=
  ∀ (i : Instr) (s t : State) (len : Nat) (k : ErrorKind), pduLen i = some len →
    exec i s = .next t → t.returned = .err k →
    t.ports.result = errorCode k ∧ fieldsZero t.ports ∧ t.ports.nameId = s.ports.nameId ∧
    t.lookupName = s.lookupName ∧ t.inputs = s.inputs ∧ t.mem = s.mem ∧ t.params = s.params ∧
    t.pending = s.pending ∧ (t.answer = .silent ∨ t.answer = .midsel none ∨ t.answer = .base none)

/-- The `result` port tags the outcome of a decode: 0 for a message, 1, 2 and 4 for the three errors, and never 3 or more than
4 (R17, R142; the numbers are the spec's decision D5). -/
def Obligations.ResultPortTagsTheOutcome : Prop :=
  ∀ (i : Instr) (s t : State) (len : Nat), pduLen i = some len → exec i s = .next t →
    (t.ports.result = 0 ∧ ∃ msg, t.returned = .ok msg) ∨
    (t.ports.result = 1 ∧ t.returned = .err .truncatedPdu) ∨
    (t.ports.result = 2 ∧ t.returned = .err .invalidLength) ∨
    (t.ports.result = 4 ∧ t.returned = .err .noDecoder)

/-- `UnrecognizedStatusCode` is never produced: a step whose result is that error started from a state that already held
it (R142, the spec's decisions D5 and D7). -/
def Obligations.UnrecognizedStatusCodeNeverProduced : Prop :=
  ∀ s t : State, step s = .next t → t.returned = .err .unrecognizedStatusCode →
    s.returned = .err .unrecognizedStatusCode

/-- The length check precedes every read: where a decode ends in an error, its outcome is the same whatever the buffer
holds (R145). -/
def Obligations.ErrorsReadNoByte : Prop :=
  ∀ (i : Instr) (s t : State) (m : Memory) (len : Nat) (k : ErrorKind), pduLen i = some len →
    exec i s = .next t → t.returned = .err k →
    exec i { s with mem := m } = .next { t with mem := m }

/-- No output depends on a byte at or beyond the length of the buffer (R29 and R173, the spec's own inferences). -/
def Obligations.BytesBeyondLengthAreUnread : Prop :=
  ∀ (i : Instr) (s t : State) (m : Memory) (len : Nat), pduLen i = some len → SameBytes len s.mem m →
    exec i s = .next t → exec i { s with mem := m } = .next { t with mem := m }

/-- The window of 16 bytes decides every output port and whether a decode fails, whatever the length: no port depends on a byte
at index 16 or above, which only the raw parameters carry (R5 `WIN`, R16, the spec's decision D2 and own inference). -/
def Obligations.WindowDecidesThePorts : Prop :=
  ∀ (i : Instr) (s t t' : State) (m : Memory) (len : Nat), pduLen i = some len → window s.mem = window m →
    exec i s = .next t → exec i { s with mem := m } = .next t' →
    t'.ports = t.ports ∧ (∀ k, t.returned = .err k ↔ t'.returned = .err k)

/-- No output port depends on the bits that no formula reads (R55, the spec's decision D12): the upper nibble of byte 2 and the
lower nibble of byte 3 of an AppKey Status, and `P[9][4:0]`, `P[10]` and `P[11][7:5]` of a Model Publication Status. -/
def Obligations.IgnoredBitsReachNoPort : Prop :=
  (∀ (s t t' : State) (m : Memory), SameBytes 2 s.mem m → readMem s.mem 4 = readMem m 4 →
    readMem s.mem 2 &&& 0x0F#8 = readMem m 2 &&& 0x0F#8 → readMem s.mem 3 &&& 0xF0#8 = readMem m 3 &&& 0xF0#8 →
    exec (.decAppkey 5) s = .next t → exec (.decAppkey 5) { s with mem := m } = .next t' →
    t.ports = t'.ports) ∧
  (∀ (s t t' : State) (m : Memory) (len : Nat),
    (∀ j, j < len → j ≠ 9 → j ≠ 10 → j ≠ 11 → readMem s.mem j = readMem m j) →
    readMem s.mem 9 &&& 0xE0#8 = readMem m 9 &&& 0xE0#8 → readMem s.mem 11 &&& 0x1F#8 = readMem m 11 &&& 0x1F#8 →
    exec (.decModelpub len) s = .next t → exec (.decModelpub len) { s with mem := m } = .next t' →
    t.ports = t'.ports)

/-- R105, R128: two transactions with the same length, buffer, security fields and parameters give the same result, whatever
else differs, and the same transaction again changes nothing. -/
def Obligations.DecodingTwiceGivesTheSameResult : Prop :=
  ∀ (i : Instr) (s s' t t' : State) (len : Nat), (i = .decAppkey len ∨ i = .decModelpub len) →
    s'.params = s.params → s'.inputs.akf = s.inputs.akf → s'.inputs.aid = s.inputs.aid →
    SameBytes len s.mem s'.mem → exec i s = .next t → exec i s' = .next t' →
    t'.returned = t.returned ∧ t'.ports = { t.ports with nameId := s'.ports.nameId } ∧ t'.answer = t.answer ∧
    exec i t = .next t

/-! ### What no operation does -/

/-- R30: no operation writes the buffer, the name table or the node context: every byte, every parameter and every input is as
it was. -/
def Obligations.NoOperationWritesItsInputs : Prop :=
  ∀ (i : Instr) (s t : State), exec i s = .next t →
    (∀ a, readMem t.mem a = readMem s.mem a) ∧ t.mem = s.mem ∧ t.params.nameTable = s.params.nameTable ∧
    t.params = s.params ∧ t.inputs = s.inputs ∧ t.pending = s.pending

/-- R20: the name table has exactly 19 entries in every instance, after reset as at any time, and no step writes it; the other
parameters are constants of the instance too. -/
def Obligations.NameTableIsConstant : Prop :=
  (∀ prm : Params, instantiable prm = true → (State.resetWith prm).params.nameTable.length = 19) ∧
  ∀ s t : State, step s = .next t → s.params.nameTable.length = 19 ∧ t.params.nameTable = s.params.nameTable ∧
    t.params = s.params

/-! ### The machine -/

/-- Every operation ends in a next state in every instance that R162 admits: no fault, no refusal (R162, the spec's own
inference). -/
def Obligations.EveryOperationCompletes : Prop :=
  ∀ (i : Instr) (s : State), instantiable s.params = true → ∃ t, exec i s = .next t

/-- Every step of an instance that R162 admits ends in a next state, if the words of the next transaction, where there is one,
and its identifier can be carried by the ports (R162, the spec's own inference; log 7, log 12, log 13). -/
def Obligations.EveryStepCompletes : Prop :=
  ∀ s : State, instantiable s.params = true →
    (∀ t rest, s.pending = t :: rest → presentable s.params t = true) → ∃ t, step s = .next t

/-- The parameters with which R162 refuses to instantiate the block are refused by every step (R162, the spec's own inference;
log 12). -/
def Obligations.BadInstancesAreRefused : Prop :=
  ∀ s : State,
    s.params.opcAppkeyStatus = s.params.opcModelPubStatus ∨ s.params.nameTable.length ≠ 19 ∨
      s.params.nameTable[0]? ≠ some "Success" ∨ s.params.nameTable[18]? ≠ some "RFU" ∨
      s.params.lookupTotal = false →
    step s = .refused .notInstantiable

/-- A step runs the decoded operation: where the words of the caller's next transaction decode to an operation, the step is
the meaning of that operation on the state in which the caller has presented the transaction, provided that the `aid` port
carries its identifier (log 13). That the transactions stand in a list of the caller's is the model's (log 1). -/
def Obligations.StepRunsTheDecodedOperation : Prop :=
  ∀ (s : State) (t : Transaction) (rest : List Transaction) (i : Instr), instantiable s.params = true →
    s.pending = t :: rest → decode s.params.lenW t.words = .ok i → carried s.params t = true →
    step s = exec i (present s t rest) ∧ (present s t rest).pending = rest ∧
    (present s t rest).params = s.params ∧ (present s t rest).ports = s.ports

/-- What presenting a PDU puts on the ports: its kind, its length, its security fields and its bytes, with the bytes beyond it
as they were (R16, R173; log 7, log 13, log 18; the input `path` is the model's own, log 20). -/
def Obligations.PresentingAPduDrivesItsPorts : Prop :=
  ∀ (s : State) (t : Transaction) (rest : List Transaction) (kind : Kind) (len : Nat), s.mem.wf = true →
    len < 2 ^ s.params.lenW →
    t.words = ⟨.pdu, leBytes (selBytes s.params.lenW) (selWord s.params.lenW kind len)⟩ →
    (present s t rest).inputs =
      { s.inputs with path := .direct, kind := kind, len := len, akf := t.akf, aid := t.aid % 2 ^ s.params.aidW } ∧
    (∀ j, (h : j < t.buffer.length) → readMem (present s t rest).mem j = t.buffer[j]) ∧
    (∀ j, t.buffer.length ≤ j → readMem (present s t rest).mem j = readMem s.mem j)

/-- Reset of an instance, whatever its parameters: no error latched, no transaction pending, and every field output zero under
the outcome of an empty buffer of kind 0; a step from there changes nothing (R21, R165; the inputs at reset, the model's own `path`
among them, are the model's choice, log 3, log 20). -/
def Obligations.ResetShowsTheEmptyBuffer : Prop :=
  State.reset = State.resetWith Params.default ∧
  ∀ prm : Params, (State.resetWith prm).params = prm ∧ (State.resetWith prm).ports.result = 1 ∧
    (State.resetWith prm).returned = .err .truncatedPdu ∧ fieldsZero (State.resetWith prm).ports ∧
    (State.resetWith prm).ports.nameId = 0 ∧ (State.resetWith prm).pending = [] ∧
    (State.resetWith prm).inputs.len = 0 ∧ (State.resetWith prm).answer = .silent ∧
    (instantiable prm = true → step (State.resetWith prm) = .next (State.resetWith prm))

/-- The outputs at reset are the function of the inputs present, in every instance (R21, the spec's decision D18; the inputs, the
model's own `path` among them, are the model's choice, log 3, log 20). -/
def Obligations.ResetIsConsistent : Prop :=
  ∀ prm : Params, instantiable prm = true → Consistent (State.resetWith prm)

/-- The invariant that every step keeps: the block's outputs are the function of the inputs present, `name_id` among them, the
parameters are those of an instance, the buffer is in canonical form and the `aid` port carries `AID_W` bits (R15, R16, R21,
R74, the spec's decisions D1, D2, D16, D18). Among the inputs is the model's own `path`, by which the outputs follow the front of
the last PDU (log 20). -/
def Obligations.StepKeepsOutputsConsistent : Prop :=
  ∀ s t : State, Consistent s → step s = .next t → Consistent t

/-- From any state of an instance with a canonical buffer, a step with nothing to present leads to outputs that are the function
of the inputs present, and another such step changes nothing (R15, R21; log 8). Which front those outputs follow is the model's
choice: it is the model's own input `path`, as the last PDU left it (log 20). -/
def Obligations.IdleStepSettlesTheOutputs : Prop :=
  ∀ s : State, instantiable s.params = true → s.mem.wf = true → s.inputs.aid < 2 ^ s.params.aidW → s.pending = [] →
    ∃ t, step s = .next t ∧ Consistent t ∧ t.inputs = s.inputs ∧ t.mem = s.mem ∧ t.answer = .silent ∧
      step t = .next t

/-- Every step keeps the buffer in canonical form, in every state that has it so; the form is the model's (log 5). -/
def Obligations.StepKeepsMemoryCanonical : Prop :=
  ∀ s t : State, s.mem.wf = true → step s = .next t → t.mem.wf = true

/-- No dependence on earlier messages: two machines with the same parameters that are presented the same transaction give the same
answer of the unit it addresses, for a PDU with its true length the same result and the same field ports, and for a status
code the same lookup, whatever either did or held before, an error included (R14, R39, R152). -/
def Obligations.ResultsDoNotDependOnHistory : Prop :=
  ∀ (s s' u u' : State) (t : Transaction) (rest rest' : List Transaction) (i : Instr),
    s'.params = s.params → s.pending = t :: rest → s'.pending = t :: rest' →
    s.mem.wf = true → s'.mem.wf = true → decode s.params.lenW t.words = .ok i →
    (∀ len, pduLen i = some len → t.buffer.length = len) →
    step s = .next u → step s' = .next u' →
    u'.answer = u.answer ∧
    (∀ len, pduLen i = some len →
      u'.returned = u.returned ∧ u'.ports = { u.ports with nameId := u'.ports.nameId }) ∧
    (t.words.port = .codeIn ∨ t.words.port = .statusRow →
      u'.ports.nameId = u.ports.nameId ∧ u'.lookupName = u.lookupName)

/-! ### Encodings -/

/-- Decode and encode agree: every operation that the ports of `LEN_W` bits can carry is read back from its words, with every
operand at every value (the layout of the words is the model's, log 6, log 7). -/
def Obligations.DecodeInvertsEncode : Prop :=
  ∀ (lenW : Nat) (i : Instr), i.wf lenW = true → decode lenW (encode lenW i) = .ok i

/-- Each word has one meaning: whatever words decode are the words of the operation they decode to (their layout is the model's,
log 6, log 7). -/
def Obligations.EncodeInvertsDecode : Prop :=
  ∀ (lenW : Nat) (w : Words) (i : Instr), decode lenW w = .ok i → encode lenW i = w

/-- What decodes is well formed: the parent row `DEC.MODELPUB` never takes a length of its two sub-rows, and the default arm
never takes a code of another row (R54, R63). That words with a bit above the `len` port do not decode, and where the words are
presented, is the model's choice (log 6, log 7). -/
def Obligations.DecodedOperationsAreWellFormed : Prop :=
  ∀ (lenW : Nat) (w : Words) (i : Instr), decode lenW w = .ok i → i.wf lenW = true

/-- Words of a width that the ports of their unit do not have are refused by name. The refusal is the model's own choice (log 7):
the spec gives only the widths (R52, R54, R60 for the opcode, R63(a) for the selector word in bits) and names no refusal of an
operation (R162). How many bytes hold a selector word or a length is the model's choice too (log 7). -/
def Obligations.WrongWidthsAreRefused : Prop :=
  ∀ (lenW : Nat) (w : Words), w.bytes.length ≠ portBytes lenW w.port →
    decode lenW w = .error (.operandWidth w.port)

/-- The selector word `(kind, len)` for every `LEN_W`: each of the three exact rows is read exactly at its word, the parent row
on the rest of kind 1, and every other word is the AppKey Status decoder, which returns its error. With the default
`LEN_W` of 9 these are the match and mask of the table's rows (R63(a), the spec's own conventions; the layout of the word in
bytes is the model's, log 7, log 16). -/
def Obligations.SelectorRowsMatchTheTable : Prop :=
  (∀ (lenW sel : Nat) (w : Words), sel < 2 ^ (lenW + 1) → w = ⟨.pdu, leBytes (selBytes lenW) sel⟩ →
    (decode lenW w = .ok (.decAppkey 5) ↔ sel < 2 ^ lenW ∧ sel = 5) ∧
    (decode lenW w = .ok .decModelpubSig ↔ sel = 2 ^ lenW + 14) ∧
    (decode lenW w = .ok .decModelpubVnd ↔ sel = 2 ^ lenW + 16) ∧
    ((∃ len, decode lenW w = .ok (.decModelpub len)) ↔
      2 ^ lenW ≤ sel ∧ sel ≠ 2 ^ lenW + 14 ∧ sel ≠ 2 ^ lenW + 16) ∧
    ((∃ len, decode lenW w = .ok (.decAppkey len)) ↔ sel < 2 ^ lenW)) ∧
  (∀ sel, sel < 1024 →
    (decodeTableWord 16 sel = some (.decAppkey 5) ↔ sel &&& 0x3FF = 0x005) ∧
    (decodeTableWord 16 sel = some .decModelpubSig ↔ sel &&& 0x3FF = 0x20E) ∧
    (decodeTableWord 16 sel = some .decModelpubVnd ↔ sel &&& 0x3FF = 0x210) ∧
    ((∃ len, decodeTableWord 16 sel = some (.decModelpub len)) ↔
      sel &&& 0x200 = 0x200 ∧ sel &&& 0x3FF ≠ 0x20E ∧ sel &&& 0x3FF ≠ 0x210) ∧
    ((∃ len, decodeTableWord 16 sel = some (.decAppkey len)) ↔ sel &&& 0x200 = 0))

/-- A length presented modulo 2^LEN_W is read as the smaller one: a buffer too long for the port would be decoded as another,
such as 517 bytes as 5 with a `LEN_W` of 9, which is why the transport must not truncate it (R175, the spec's
decision D25). -/
def Obligations.TruncatedLengthsAreMisread : Prop :=
  (∀ lenW len : Nat, decode lenW (encode lenW (.decAppkey len)) = .ok (.decAppkey (len % 2 ^ lenW))) ∧
  encode 9 (.decAppkey 517) = encode 9 (.decAppkey 5)

/-- A few words written out from the spec's encodings: KIDX.A 01 02, KIDX.B 03 04, MID16 00 13, MID32 59 00 01 00, status codes
0x12 and 0xC7, and the selector words 0x005, 0x20E, 0x210 and 0x200 (R52, R61, R63; the byte order of the selector word is
the model's, log 7). -/
def Obligations.WrittenOutWordsDecode : Prop :=
  decode 9 ⟨.kidxA, [0x01#8, 0x02#8]⟩ = .ok (.kidxA 0x01 0x02) ∧
  decode 9 ⟨.kidxB, [0x03#8, 0x04#8]⟩ = .ok (.kidxB 0x03 0x04) ∧
  decode 9 ⟨.mid16, [0x00#8, 0x13#8]⟩ = .ok (.mid16 0x00 0x13) ∧
  decode 9 ⟨.mid32, [0x59#8, 0x00#8, 0x01#8, 0x00#8]⟩ = .ok (.mid32 0x59 0x00 0x01 0x00) ∧
  decode 9 ⟨.statusRow, [0x12#8]⟩ = .ok .status18 ∧
  decode 9 ⟨.statusRow, [0xC7#8]⟩ = .ok (.statusDefault 0xC7) ∧
  decode 9 ⟨.pdu, [0x05#8, 0x00#8]⟩ = .ok (.decAppkey 5) ∧
  decode 9 ⟨.pdu, [0x0E#8, 0x02#8]⟩ = .ok .decModelpubSig ∧
  decode 9 ⟨.pdu, [0x10#8, 0x02#8]⟩ = .ok .decModelpubVnd ∧
  decode 9 ⟨.pdu, [0x00#8, 0x02#8]⟩ = .ok (.decModelpub 0)
end

