-- ==== Sys2Proof/Laws/Memory.lean ====
section
/-! SUPPORT. The parameter space: a write keeps the canonical form, a read after a write, and what a run of writes
leaves. -/

namespace Sys2Proof.Machine

theorem Memory.wfFrom_mono {low low' : Nat} {m : Memory} (hle : low' ≤ low)
    (h : Memory.wfFrom low m = true) : Memory.wfFrom low' m = true := by
  cases m with
  | nil => rfl
  | cons c m => simp [Memory.wfFrom] at h ⊢; exact ⟨⟨by omega, h.1.2⟩, h.2⟩

theorem writeMem_wfFrom {low i : Nat} {m : Memory} (v : Byte) (hi : low ≤ i)
    (h : Memory.wfFrom low m = true) : Memory.wfFrom low (writeMem m i v) = true := by
  induction m generalizing low with
  | nil => unfold writeMem; split <;> simp_all [Memory.wfFrom]
  | cons c m ih =>
    obtain ⟨a, b⟩ := c
    simp [Memory.wfFrom] at h
    unfold writeMem
    split
    · split
      · simp [Memory.wfFrom]; exact h
      · simp_all [Memory.wfFrom]
    · split
      · split
        · exact Memory.wfFrom_mono (by omega) h.2
        · simp_all [Memory.wfFrom]
      · simp [Memory.wfFrom]; exact ⟨h.1, ih (by omega) h.2⟩

/-- Every write keeps the canonical form. -/
theorem writeMem_wf {m : Memory} (i : Nat) (v : Byte) (h : m.wf = true) : Memory.wf (writeMem m i v) = true :=
  writeMem_wfFrom v (Nat.zero_le i) h

/-- Every run of writes keeps the canonical form. -/
theorem writeBytes_wf {m : Memory} (i : Nat) (vs : List Byte) (h : m.wf = true) :
    Memory.wf (writeBytes m i vs) = true := by
  induction vs generalizing m i with
  | nil => exact h
  | cons v vs ih => exact ih _ (writeMem_wf i v h)

/-- An index below every listed one reads as 0x00. -/
theorem readMem_of_lt {low i : Nat} {m : Memory} (h : Memory.wfFrom low m = true) (hi : i < low) :
    readMem m i = 0#8 := by
  induction m generalizing low with
  | nil => rfl
  | cons c m ih =>
    obtain ⟨a, b⟩ := c
    simp [Memory.wfFrom] at h
    unfold readMem
    rw [if_neg (by omega)]
    exact ih h.2 (by omega)

theorem readMem_writeMem_from {low : Nat} {m : Memory} (i j : Nat) (v : Byte)
    (h : Memory.wfFrom low m = true) :
    readMem (writeMem m i v) j = if j = i then v else readMem m j := by
  induction m generalizing low with
  | nil =>
    by_cases hv : v = 0#8 <;> by_cases hj : i = j <;> simp [writeMem, readMem, hv, hj, eq_comm (a := j)]
  | cons c m ih =>
    obtain ⟨a, b⟩ := c
    simp [Memory.wfFrom] at h
    have below : ∀ k, k < a + 1 → readMem m k = 0#8 := fun k hk => readMem_of_lt h.2 hk
    unfold writeMem
    split
    · rename_i hia
      by_cases hv : v = 0#8
      · by_cases hj : j = i
        · subst hj; simp [hv, readMem, below j (by omega)]; omega
        · simp [hv, hj]
      · by_cases hj : j = i
        · subst hj; simp [hv, readMem]
        · simp [hv, readMem, hj, Ne.symm hj]
    · split
      · rename_i hia
        subst hia
        by_cases hv : v = 0#8 <;> by_cases hj : j = i
        · subst hj; simp [hv, below j (by omega)]
        · simp [hv, readMem, hj, Ne.symm hj]
        · subst hj; simp [hv, readMem]
        · simp [hv, readMem, hj, Ne.symm hj]
      · by_cases hj : j = a
        · subst hj; simp [readMem]; intro hji; omega
        · simp only [readMem, if_neg (Ne.symm hj)]; exact ih h.2

/-- A read after a write: the value written at its own index, and what was there before at every other. -/
theorem readMem_writeMem {m : Memory} (i j : Nat) (v : Byte) (h : m.wf = true) :
    readMem (writeMem m i v) j = if j = i then v else readMem m j := readMem_writeMem_from i j v h

/-- Reading after a run of writes from an index on. -/
theorem readMem_writeBytes {m : Memory} (i j : Nat) (vs : List Byte) (h : m.wf = true) :
    readMem (writeBytes m i vs) j =
      if i ≤ j ∧ j < i + vs.length then vs.getD (j - i) 0#8 else readMem m j := by
  induction vs generalizing m i with
  | nil => rw [if_neg (by simp)]; rfl
  | cons v vs ih =>
    rw [writeBytes, ih _ (writeMem_wf i v h), readMem_writeMem i j v h]
    by_cases hj : j = i
    · subst hj; simp
    · by_cases hin : i + 1 ≤ j ∧ j < i + 1 + vs.length
      · obtain ⟨k, rfl⟩ : ∃ k, j = i + 1 + k := ⟨j - (i + 1), by omega⟩
        have e1 : i + 1 + k - (i + 1) = k := by omega
        have e2 : i + 1 + k - i = k + 1 := by omega
        rw [if_pos hin, if_pos (by simp; omega), e1, e2]; simp
      · rw [if_neg hin, if_neg hj, if_neg (by simp; omega)]

@[simp] theorem memRead_of_lt {m : Memory} {len i : Nat} (h : i < len) :
    memRead m len i = .ok (readMem m i) := by simp [memRead, h]

/-- All that a read of the parameter space can do. -/
theorem memRead_eq_ok {m : Memory} {len i : Nat} {b : Byte} (h : memRead m len i = .ok b) :
    i < len ∧ b = readMem m i := by
  unfold memRead at h
  split at h
  · exact ⟨‹_›, by simpa using h.symm⟩
  · simp at h

@[simp] theorem buffer_length (m : Memory) (len : Nat) : (buffer m len).length = len := by simp [buffer]

theorem buffer_congr {m m' : Memory} {len : Nat} (h : SameBytes len m m') : buffer m len = buffer m' len := by
  simp only [buffer]
  exact List.map_congr_left fun i hi => h i (List.mem_range.mp hi)

theorem reset_memory_wf : State.reset.mem.wf = true := rfl

end Sys2Proof.Machine
end

