-- ==== Sys2Proof/Laws/State.lean ====
section
/-! SUPPORT. One lemma per field per update of the state: delivering a result, presenting a transaction, placing a
word. -/

namespace Sys2Proof.Machine

@[simp] theorem deliver_params (s : State) (r : Result) : (deliver s r).params = s.params := by cases r <;> rfl
@[simp] theorem deliver_pending (s : State) (r : Result) : (deliver s r).pending = s.pending := by cases r <;> rfl
@[simp] theorem deliver_inputs (s : State) (r : Result) : (deliver s r).inputs = s.inputs := by cases r <;> rfl
@[simp] theorem deliver_mem (s : State) (r : Result) : (deliver s r).mem = s.mem := by cases r <;> rfl
@[simp] theorem deliver_ports (s : State) (r : Result) :
    (deliver s r).ports = drivePorts s.ports.nameId r := by cases r <;> rfl
@[simp] theorem deliver_returned (s : State) (r : Result) : (deliver s r).returned = r := by cases r <;> rfl
@[simp] theorem deliver_lookupName (s : State) (r : Result) : (deliver s r).lookupName = s.lookupName := by
  cases r <;> rfl
@[simp] theorem deliver_answer (s : State) (r : Result) : (deliver s r).answer = s.answer := by cases r <;> rfl

/-- The whole delivered state at once. -/
theorem deliver_eq (s : State) (r : Result) :
    deliver s r = { s with ports := drivePorts s.ports.nameId r, returned := r } := by cases r <;> rfl

@[simp] theorem replying_params (s : State) (a : Answer) : (replying s a).params = s.params := rfl
@[simp] theorem replying_pending (s : State) (a : Answer) : (replying s a).pending = s.pending := rfl
@[simp] theorem replying_inputs (s : State) (a : Answer) : (replying s a).inputs = s.inputs := rfl
@[simp] theorem replying_mem (s : State) (a : Answer) : (replying s a).mem = s.mem := rfl
@[simp] theorem replying_ports (s : State) (a : Answer) : (replying s a).ports = s.ports := rfl
@[simp] theorem replying_returned (s : State) (a : Answer) : (replying s a).returned = s.returned := rfl
@[simp] theorem replying_lookupName (s : State) (a : Answer) : (replying s a).lookupName = s.lookupName := rfl
@[simp] theorem replying_answer (s : State) (a : Answer) : (replying s a).answer = a := rfl

@[simp] theorem drivePorts_nameId (v : BitVec 5) (r : Result) : (drivePorts v r).nameId = v := by
  rcases r with (a | p) | k <;> rfl

@[simp] theorem present_params (s : State) (t : Transaction) (rest : List Transaction) :
    (present s t rest).params = s.params := by unfold present; split <;> rfl
@[simp] theorem present_pending (s : State) (t : Transaction) (rest : List Transaction) :
    (present s t rest).pending = rest := by unfold present; split <;> rfl
@[simp] theorem present_ports (s : State) (t : Transaction) (rest : List Transaction) :
    (present s t rest).ports = s.ports := by unfold present; split <;> rfl
@[simp] theorem present_returned (s : State) (t : Transaction) (rest : List Transaction) :
    (present s t rest).returned = s.returned := by unfold present; split <;> rfl
@[simp] theorem present_lookupName (s : State) (t : Transaction) (rest : List Transaction) :
    (present s t rest).lookupName = s.lookupName := by unfold present; split <;> rfl
@[simp] theorem present_answer (s : State) (t : Transaction) (rest : List Transaction) :
    (present s t rest).answer = s.answer := by unfold present; split <;> rfl

/-- A unit that takes no buffer leaves the parameter space alone, and the others get the caller's bytes. -/
theorem present_mem (s : State) (t : Transaction) (rest : List Transaction) :
    (present s t rest).mem =
      if takesBuffer t.words.port then writeBytes s.mem 0 t.buffer else s.mem := by
  unfold present; split <;> rfl

@[simp] theorem withFetchWord_params (s : State) (nbits w : Nat) :
    (s.withFetchWord nbits w).params = s.params := by unfold State.withFetchWord; split <;> rfl
@[simp] theorem withFetchWord_mem (s : State) (nbits w : Nat) :
    (s.withFetchWord nbits w).mem = s.mem := by unfold State.withFetchWord; split <;> rfl
@[simp] theorem withFetchWord_inputs (s : State) (nbits w : Nat) :
    (s.withFetchWord nbits w).inputs = s.inputs := by unfold State.withFetchWord; split <;> rfl

end Sys2Proof.Machine
end

