-- ==== Sys2Proof/Laws/Ops.lean ====
section
/-! SUPPORT. What each shared operation can do, said once: the lookup, the base, the choice of the identifier, the end of a
transaction. -/

namespace Sys2Proof.Machine

@[simp] theorem except_bind_ok {ε α β : Type} (a : α) (f : α → Except ε β) :
    (Except.ok a >>= f) = f a := rfl

@[simp] theorem except_pure {ε α : Type} (a : α) : (pure a : Except ε α) = .ok a := rfl

/-- All that the end of a transaction can do. -/
theorem commit_next {s t : State} {reply : Result → Answer} {e : Except Fault Result}
    (h : commit s reply e = .next t) : ∃ r, e = .ok r ∧ t = replying (deliver s r) (reply r) := by
  cases e with
  | ok r => exact ⟨r, rfl, by simpa [commit] using h.symm⟩
  | error f => simp [commit] at h

/-- All that the stand-alone lookup can do. -/
theorem showVariant_next {s t : State} {v : BitVec 5} (h : showVariant v s = .next t) :
    ∃ name, nameOf s.params v = .ok name ∧
      t = { s with ports := { s.ports with nameId := v }, lookupName := name, answer := .silent } := by
  unfold showVariant at h
  split at h
  · exact ⟨_, ‹_›, by simpa [replying] using h.symm⟩
  · simp at h

/-- R71: the variant is the smaller of the code and 18. -/
theorem variant_toNat (c : Byte) : (variant c).toNat = min c.toNat 18 := by
  unfold variant
  split
  · rw [BitVec.toNat_setWidth]; omega
  · simp only [rfuVariant]; simp; omega

theorem variant_lt (c : Byte) : (variant c).toNat < nStatus := by
  rw [variant_toNat, nStatus]; omega

/-- R162: what it is to be instantiable. -/
theorem instantiable_iff (prm : Params) : instantiable prm = true ↔
    prm.opcAppkeyStatus ≠ prm.opcModelPubStatus ∧ prm.nameTable.length = 19 ∧
    prm.nameTable[0]? = some "Success" ∧ prm.nameTable[18]? = some "RFU" ∧ prm.lookupTotal = true := by
  simp only [instantiable, Bool.and_eq_true, decide_eq_true_eq, and_assoc]
  rfl

/-- R72: in an instance that R162 admits every variant below 19 has a name. -/
theorem nameOf_ok {prm : Params} (h : instantiable prm = true) {v : BitVec 5} (hv : v.toNat < nStatus) :
    ∃ name, prm.nameTable[v.toNat]? = some name ∧ nameOf prm v = .ok name := by
  have hl : v.toNat < prm.nameTable.length := by
    rw [((instantiable_iff prm).mp h).2.1]; exact hv
  exact ⟨prm.nameTable[v.toNat], by simp [hl], by simp [nameOf, hl]⟩

/-- R16, R80: what a port of `AID_W` bits carries. -/
@[simp] theorem aidPort_toNat (prm : Params) (n : Nat) : (aidPort prm n).toNat = n % 2 ^ prm.aidW :=
  BitVec.toNat_ofNat n prm.aidW

/-- R80: the base of a buffer that is not empty. -/
theorem makeBase_ok {prm : Params} (h : instantiable prm = true) (inp : Inputs) (m : Memory) {len : Nat}
    (hl : 0 < len) : ∃ name, prm.nameTable[(variant (readMem m 0)).toNat]? = some name ∧
      makeBase prm inp m len = .ok
        { akf := inp.akf, aid := inp.aid % 2 ^ prm.aidW, parameters := buffer m len, statusCode := readMem m 0,
          statusVariant := variant (readMem m 0), statusCodeName := name } := by
  obtain ⟨name, h1, h2⟩ := nameOf_ok h (variant_lt (readMem m 0))
  exact ⟨name, h1, by simp [makeBase, hl, h2]⟩

/-- All that the block as one function can answer. -/
theorem transact_eq_ok {prm : Params} {inp : Inputs} {m : Memory} {o : Outputs}
    (h : transact prm inp m = .ok o) :
    evaluate prm inp m = .ok o.returned ∧ o.ports = drivePorts (variant inp.codeIn) o.returned ∧
      nameOf prm (variant inp.codeIn) = .ok o.lookupName := by
  unfold transact at h
  cases he : evaluate prm inp m with
  | error f => rw [he] at h; cases h
  | ok r =>
    cases hn : nameOf prm (variant inp.codeIn) with
    | error f => rw [he, hn] at h; cases h
    | ok name =>
      rw [he, hn] at h
      simp only [except_bind_ok, except_pure, Except.ok.injEq] at h
      subst h; exact ⟨rfl, rfl, rfl⟩

/-- The block as one function, from the result and the name. -/
theorem transact_ok {prm : Params} {inp : Inputs} {m : Memory} {r : Result} {name : String}
    (he : evaluate prm inp m = .ok r) (hn : nameOf prm (variant inp.codeIn) = .ok name) :
    transact prm inp m = .ok ⟨r, drivePorts (variant inp.codeIn) r, name⟩ := by
  simp [transact, he, hn]

/-- All that a step with nothing pending can do. -/
theorem settle_next {s t : State} (h : settle s = .next t) :
    ∃ o, transact s.params s.inputs s.mem = .ok o ∧
      t = { s with returned := o.returned, ports := o.ports, lookupName := o.lookupName, answer := .silent } := by
  unfold settle at h
  split at h
  · exact ⟨_, ‹_›, by simpa [replying] using h.symm⟩
  · cases h

/-- All that a step can do: settle, or run the operation of the next transaction on what the caller has presented. -/
theorem step_next {s t : State} (h : step s = .next t) : instantiable s.params = true ∧
    ((s.pending = [] ∧ settle s = .next t) ∨
      ∃ x rest i, s.pending = x :: rest ∧ decode s.params.lenW x.words = .ok i ∧ carried s.params x = true ∧
        exec i (present s x rest) = .next t) := by
  unfold step at h
  split at h
  · refine ⟨‹_›, ?_⟩
    split at h
    · exact .inl ⟨‹_›, h⟩
    · split at h
      · split at h
        · exact .inr ⟨_, _, _, ‹_›, ‹_›, ‹_›, h⟩
        · cases h
      · cases h
  · cases h

/-- R112: `MIDSEL` on the shorter of the two accepted lengths. -/
theorem midsel_sig (m : Memory) : midsel m 14 =
    .ok { identifier := zext32 (mid16 (readMem m 12) (readMem m 13)), width := .bits16 } := by
  simp [midsel, mpLenSig]

/-- R112: `MIDSEL` on the longer of the two accepted lengths. -/
theorem midsel_vnd (m : Memory) : midsel m 16 =
    .ok { identifier := mid32 (readMem m 12) (readMem m 13) (readMem m 14) (readMem m 15),
          width := .bits32 } := by
  simp [midsel, mpLenSig]

end Sys2Proof.Machine
end

