-- ==== Sys2Proof/Laws/PerInstr.lean ====
section
/-! SUPPORT. The family `Width`: the words of every operation have the number of bytes that the format of its unit
fixes (spec/30_encoding.md rules R52, R54, R63). -/

namespace Sys2Proof.Laws

theorem leBytes_length (count v : Nat) : (leBytes count v).length = count := by
  induction count generalizing v with
  | zero => rfl
  | succ n ih => simp [leBytes, ih]

/-- The words of `i` have the width of their format, whatever `LEN_W` is. -/
def Width.Statement (i : Instr) : Prop :=
  ∀ lenW : Nat, (encode lenW i).bytes.length = portBytes lenW (encode lenW i).port

theorem Width.lookup (c : Byte) : Width.Statement (.lookup c) := fun _ => rfl
theorem Width.status00 : Width.Statement .status00 := fun _ => rfl
theorem Width.status01 : Width.Statement .status01 := fun _ => rfl
theorem Width.status02 : Width.Statement .status02 := fun _ => rfl
theorem Width.status03 : Width.Statement .status03 := fun _ => rfl
theorem Width.status04 : Width.Statement .status04 := fun _ => rfl
theorem Width.status05 : Width.Statement .status05 := fun _ => rfl
theorem Width.status06 : Width.Statement .status06 := fun _ => rfl
theorem Width.status07 : Width.Statement .status07 := fun _ => rfl
theorem Width.status08 : Width.Statement .status08 := fun _ => rfl
theorem Width.status09 : Width.Statement .status09 := fun _ => rfl
theorem Width.status10 : Width.Statement .status10 := fun _ => rfl
theorem Width.status11 : Width.Statement .status11 := fun _ => rfl
theorem Width.status12 : Width.Statement .status12 := fun _ => rfl
theorem Width.status13 : Width.Statement .status13 := fun _ => rfl
theorem Width.status14 : Width.Statement .status14 := fun _ => rfl
theorem Width.status15 : Width.Statement .status15 := fun _ => rfl
theorem Width.status16 : Width.Statement .status16 := fun _ => rfl
theorem Width.status17 : Width.Statement .status17 := fun _ => rfl
theorem Width.status18 : Width.Statement .status18 := fun _ => rfl
theorem Width.statusDefault (c : Byte) : Width.Statement (.statusDefault c) := fun _ => rfl
theorem Width.kidxA (lo hi : Byte) : Width.Statement (.kidxA lo hi) := fun _ => rfl
theorem Width.kidxB (lo hi : Byte) : Width.Statement (.kidxB lo hi) := fun _ => rfl
theorem Width.mid16 (b0 b1 : Byte) : Width.Statement (.mid16 b0 b1) := fun _ => rfl
theorem Width.mid32 (b0 b1 b2 b3 : Byte) : Width.Statement (.mid32 b0 b1 b2 b3) := fun _ => rfl
theorem Width.midsel (len : Nat) : Width.Statement (.midsel len) := fun _ => leBytes_length _ _
theorem Width.decAppkey (len : Nat) : Width.Statement (.decAppkey len) := fun _ => leBytes_length _ _
theorem Width.decModelpub (len : Nat) : Width.Statement (.decModelpub len) := fun _ => leBytes_length _ _
theorem Width.decModelpubSig : Width.Statement .decModelpubSig := fun _ => leBytes_length _ _
theorem Width.decModelpubVnd : Width.Statement .decModelpubVnd := fun _ => leBytes_length _ _
theorem Width.base (kind : Kind) (len : Nat) : Width.Statement (.base kind len) := fun _ => leBytes_length _ _
theorem Width.decodeOp (opcode : BitVec 32) (len : Nat) : Width.Statement (.decodeOp opcode len) := fun lenW => by
  simp [encode, opcodeBytes, lenBytes, leBytes_length, portBytes]; omega

end Sys2Proof.Laws
end

