-- ==== Sys2Proof/Tests/Slice0.lean ====
section
/-! SUPPORT. Tests of this model, each about one step: words written out from the encodings of spec/30_encoding.md, the
vectors of spec/95_test_vectors.md, and for every obligation with hypotheses a state and operands that meet them. -/

open Sys2Proof Sys2Proof.Machine

namespace Sys2Proof.Tests

/-- Whether an operation ends in a next state of which something holds. -/
def ends (o : Host.Outcome State Fault Refusal) (p : State → Bool) : Bool :=
  match o with
  | .next t => p t
  | .fault _ => false
  | .refused _ => false

/-- The machine after reset with a buffer at its ports, and `akf` = 1, `aid` = 0x2A. -/
def holding (bs : List Byte) : State :=
  { State.reset with mem := writeBytes [] 0 bs, inputs := { Inputs.reset with akf := 1, aid := 0x2A } }

/-- The same with `APPKEY_OVERLENGTH` = ignore_tail. -/
def tolerant (bs : List Byte) : State :=
  { holding bs with params := { Params.default with appkeyOverlength := .ignoreTail } }

/-- `result`, status code, variant, network key index and application key index after `DEC.APPKEY` of a buffer. -/
def appkeyOf (s : State) (len : Nat) (expected : List Nat) : Bool :=
  ends (exec (.decAppkey len) s) fun t =>
    decide ([t.ports.result.toNat, t.ports.statusCode.toNat, t.ports.statusVariant.toNat,
      t.ports.netKeyIndex.toNat, t.ports.appKeyIndex.toNat] = expected)

/-- The port fields in the order of R120 after an operation on a buffer. -/
def fieldsOf (i : Instr) (s : State) (expected : List Nat) : Bool :=
  ends (exec i s) fun t =>
    decide ([t.ports.result.toNat, t.ports.statusCode.toNat, t.ports.statusVariant.toNat,
      t.ports.elementAddress.toNat, t.ports.publishAddressB0.toNat, t.ports.publishAddressB1.toNat,
      t.ports.appKeyIndex.toNat, t.ports.credentialFlag.toNat, t.ports.publishTtl.toNat,
      t.ports.publishPeriod.toNat, t.ports.publishRetransmitCount.toNat,
      t.ports.publishRetransmitIntervalSteps.toNat, t.ports.modelIdentifier.toNat,
      t.ports.modelIdentifierIs32.toNat] = expected)

/-- An operation ends in the given error, with its code on `result` and no security field shown. -/
def failsWith (i : Instr) (s : State) (k : ErrorKind) (code : Nat) : Bool :=
  ends (exec i s) fun t =>
    decide (t.returned = .err k) && decide (t.ports = { Ports.reset with result := BitVec.ofNat 3 code })

/-- S1. -/
def bufS1 : List Byte := [0x00, 0x01, 0x02, 0x03, 0x04]

/-- V30. -/
def buf30 : List Byte :=
  [0x00, 0x34, 0x12, 0x00, 0xC0, 0x56, 0x14, 0x05, 0x29, 0xA0, 0x00, 0x0C, 0x00, 0x13]

/-- V31. -/
def buf31 : List Byte := buf30 ++ [0x01, 0x00]

/-- V32. -/
def buf32 : List Byte :=
  [0x07, 0x02, 0x00, 0xFF, 0xFF, 0x00, 0x00, 0xFF, 0x00, 0x1F, 0xEE, 0xE0, 0x59, 0x00, 0x01, 0x00]

/-- V34. -/
def buf34 : List Byte :=
  [0x02, 0x05, 0x01, 0x01, 0x00, 0xFF, 0xEF, 0x7F, 0x41, 0xFF, 0x55, 0xFF, 0x34, 0x12]

/-! ### Well-formedness -/

theorem test_wf_default_arm : (Instr.statusDefault 0x12).wf 9 = false ∧ (Instr.statusDefault 0x13).wf 9 = true := by
  decide

theorem test_wf_parent_row : (Instr.decModelpub 14).wf 9 = false ∧ (Instr.decModelpub 16).wf 9 = false ∧
    (Instr.decModelpub 15).wf 9 = true ∧ (Instr.decModelpub 512).wf 9 = false := by decide

theorem test_wf_lengths : (Instr.decAppkey 512).wf 9 = false ∧ (Instr.decAppkey 511).wf 9 = true ∧
    (Instr.midsel 512).wf 9 = false ∧ (Instr.base .appKeyStatus 512).wf 9 = false ∧
    (Instr.decodeOp 0x8003 512).wf 9 = false := by decide

theorem test_wf_narrow_length_port : Instr.decModelpubSig.wf 3 = false ∧ Instr.decModelpubSig.wf 4 = true ∧
    Instr.decModelpubVnd.wf 4 = false ∧ Instr.decModelpubVnd.wf 5 = true := by decide

theorem test_wf_aid : Transaction.aidFits 6 ⟨⟨.codeIn, [0x00]⟩, [], 0, 64⟩ = false ∧
    Transaction.aidFits 6 ⟨⟨.codeIn, [0x00]⟩, [], 0, 63⟩ = true := by decide

/-! ### Decoding -/

/-- R54, R63(b): SC8. -/
theorem test_decode_status_rows :
    decode 9 ⟨.statusRow, [0x00]⟩ = .ok .status00 ∧ decode 9 ⟨.statusRow, [0x01]⟩ = .ok .status01 ∧
    decode 9 ⟨.statusRow, [0x02]⟩ = .ok .status02 ∧ decode 9 ⟨.statusRow, [0x03]⟩ = .ok .status03 ∧
    decode 9 ⟨.statusRow, [0x04]⟩ = .ok .status04 ∧ decode 9 ⟨.statusRow, [0x05]⟩ = .ok .status05 ∧
    decode 9 ⟨.statusRow, [0x06]⟩ = .ok .status06 ∧ decode 9 ⟨.statusRow, [0x07]⟩ = .ok .status07 ∧
    decode 9 ⟨.statusRow, [0x08]⟩ = .ok .status08 ∧ decode 9 ⟨.statusRow, [0x09]⟩ = .ok .status09 := by decide

/-- R54, R63(b): SC8 from code 10 on. -/
theorem test_decode_status_rows_high :
    decode 9 ⟨.statusRow, [0x0A]⟩ = .ok .status10 ∧ decode 9 ⟨.statusRow, [0x0B]⟩ = .ok .status11 ∧
    decode 9 ⟨.statusRow, [0x0C]⟩ = .ok .status12 ∧ decode 9 ⟨.statusRow, [0x0D]⟩ = .ok .status13 ∧
    decode 9 ⟨.statusRow, [0x0E]⟩ = .ok .status14 ∧ decode 9 ⟨.statusRow, [0x0F]⟩ = .ok .status15 ∧
    decode 9 ⟨.statusRow, [0x10]⟩ = .ok .status16 ∧ decode 9 ⟨.statusRow, [0x11]⟩ = .ok .status17 ∧
    decode 9 ⟨.statusRow, [0x12]⟩ = .ok .status18 ∧ decode 9 ⟨.statusRow, [0x13]⟩ = .ok (.statusDefault 0x13) ∧
    decode 9 ⟨.statusRow, [0xFF]⟩ = .ok (.statusDefault 0xFF) := by decide

/-- R52: SC8, KA16, KB16, M16 and M32 are operand bytes in buffer order. -/
theorem test_decode_small_units :
    decode 9 ⟨.codeIn, [0xC7]⟩ = .ok (.lookup 0xC7) ∧
    decode 9 ⟨.kidxA, [0x34, 0x12]⟩ = .ok (.kidxA 0x34 0x12) ∧
    decode 9 ⟨.kidxB, [0x60, 0xAB]⟩ = .ok (.kidxB 0x60 0xAB) ∧
    decode 9 ⟨.mid16, [0x34, 0x12]⟩ = .ok (.mid16 0x34 0x12) ∧
    decode 9 ⟨.mid32, [0x59, 0x00, 0x01, 0x02]⟩ = .ok (.mid32 0x59 0x00 0x01 0x02) := by decide

/-- R63(a): selector words of 10 bits, the kind in bit 9; least significant byte first (log 7). -/
theorem test_decode_selector :
    decode 9 ⟨.pdu, [0x05, 0x00]⟩ = .ok (.decAppkey 5) ∧ decode 9 ⟨.pdu, [0x0E, 0x00]⟩ = .ok (.decAppkey 14) ∧
    decode 9 ⟨.pdu, [0xFF, 0x01]⟩ = .ok (.decAppkey 511) ∧ decode 9 ⟨.pdu, [0x05, 0x02]⟩ = .ok (.decModelpub 5) ∧
    decode 9 ⟨.pdu, [0x0E, 0x02]⟩ = .ok .decModelpubSig ∧ decode 9 ⟨.pdu, [0x0F, 0x02]⟩ = .ok (.decModelpub 15) ∧
    decode 9 ⟨.pdu, [0x10, 0x02]⟩ = .ok .decModelpubVnd ∧
    decode 9 ⟨.pdu, [0x0E, 0x03]⟩ = .ok (.decModelpub 270) ∧
    decode 9 ⟨.midsel, [0x10, 0x00]⟩ = .ok (.midsel 16) ∧
    decode 9 ⟨.base, [0x0E, 0x02]⟩ = .ok (.base .modelPublicationStatus 14) := by decide

/-- R60: 32 bits of opcode, most significant byte first, then the length (log 7). -/
theorem test_decode_opcode :
    decode 9 ⟨.frontEnd, [0x00, 0x00, 0x80, 0x03, 0x05, 0x00]⟩ = .ok (.decodeOp 0x00008003 5) ∧
    decode 9 ⟨.frontEnd, [0x12, 0x34, 0x56, 0x78, 0x00, 0x01]⟩ = .ok (.decodeOp 0x12345678 256) := by decide

theorem test_decode_refuses :
    decode 9 ⟨.codeIn, []⟩ = .error (.operandWidth .codeIn) ∧
    decode 9 ⟨.statusRow, [0x00, 0x00]⟩ = .error (.operandWidth .statusRow) ∧
    decode 9 ⟨.kidxA, [0x00]⟩ = .error (.operandWidth .kidxA) ∧
    decode 9 ⟨.mid32, [0x00, 0x00]⟩ = .error (.operandWidth .mid32) ∧
    decode 9 ⟨.pdu, [0x05]⟩ = .error (.operandWidth .pdu) ∧
    decode 9 ⟨.pdu, [0x05, 0x04]⟩ = .error (.selectorPadding .pdu) ∧
    decode 9 ⟨.midsel, [0x0E, 0x02]⟩ = .error (.selectorPadding .midsel) ∧
    decode 9 ⟨.frontEnd, [0x00, 0x00, 0x80, 0x03]⟩ = .error (.operandWidth .frontEnd) := by decide

/-- R63(a): the exact rows of opcode_table.json on their match words, and whole PDUs of formats AK5, MP14 and MP16. -/
theorem test_table_words :
    decodeTableWord 8 0x12 = some .status18 ∧ decodeTableWord 8 0x13 = some (.statusDefault 0x13) ∧
    decodeTableWord 16 0x005 = some (.decAppkey 5) ∧ decodeTableWord 16 0x20E = some .decModelpubSig ∧
    decodeTableWord 16 0x210 = some .decModelpubVnd ∧ decodeTableWord 16 0x200 = some (.decModelpub 0) ∧
    decodeTableWord 16 0x400 = none ∧ decodeTableWord 40 0 = some (.decAppkey 5) ∧
    decodeTableWord 112 0 = some .decModelpubSig ∧ decodeTableWord 128 0 = some .decModelpubVnd ∧
    decodeTableWord 32 0x00008003 = some (.decodeOp 0x00008003 0) := by decide

/-- The first instruction after reset is the word that was placed: a status row, and an AK5 buffer, S1 read as one
number. -/
theorem test_fetch_word :
    ends (step (State.reset.withFetchWord 8 0x12)) (fun t => decide (t.ports.nameId = 18)) = true ∧
    ends (step (State.reset.withFetchWord 40 0x0403020100)) (fun t =>
      decide (t.ports.result = 0) && decide (t.ports.netKeyIndex = 0x201) &&
      decide (t.ports.appKeyIndex = 0x040)) = true := by decide

/-! ### The vectors of spec/95_test_vectors.md -/

/-- V1 to V10: the first, the last named, the reserved and the default codes. -/
theorem test_lookup_vectors :
    ends (exec (.lookup 0x00) State.reset) (fun t => decide (t.ports.nameId = 0) && decide (t.lookupName = "Success")) = true ∧
    ends (exec (.lookup 0x11) State.reset) (fun t => decide (t.ports.nameId = 17)) = true ∧
    ends (exec (.lookup 0x12) State.reset) (fun t => decide (t.ports.nameId = 18) && decide (t.lookupName = "RFU")) = true ∧
    ends (exec (.lookup 0xC7) State.reset) (fun t => decide (t.ports.nameId = 18) && decide (t.lookupName = "RFU")) = true := by
  decide

/-- V11 to V16, answers as held in `answer` (log 10). -/
theorem test_kidxA_vectors :
    kidxA 0x01 0x02 = 0x201 ∧ kidxA 0x00 0xF0 = 0x000 ∧ kidxA 0xFF 0xFF = 0xFFF ∧ kidxA 0xFF 0x00 = 0x0FF ∧
    kidxA 0x00 0x01 = 0x100 ∧ kidxA 0xCD 0x0B = 0xBCD ∧
    ends (exec (.kidxA 0xCD 0x0B) State.reset) (fun t => decide (t.answer = .kidxA 0xBCD)) = true := by decide

/-- V17 to V22. -/
theorem test_kidxB_vectors :
    kidxB 0x03 0x04 = 0x040 ∧ kidxB 0x0F 0x00 = 0x000 ∧ kidxB 0xF0 0x00 = 0x00F ∧ kidxB 0x00 0x01 = 0x010 ∧
    kidxB 0xFF 0xFF = 0xFFF ∧ kidxB 0x60 0xAB = 0xAB6 ∧
    ends (exec (.kidxB 0x60 0xAB) State.reset) (fun t => decide (t.answer = .kidxB 0xAB6)) = true := by decide

/-- V60 to V63. -/
theorem test_mid16_vectors :
    mid16 0x00 0x13 = 0x1300 ∧ mid16 0xFF 0x00 = 0x00FF ∧ mid16 0x00 0xFF = 0xFF00 ∧ mid16 0x34 0x12 = 0x1234 ∧
    ends (exec (.mid16 0x34 0x12) State.reset) (fun t => decide (t.answer = .mid16 0x1234)) = true := by decide

/-- V64 to V70. -/
theorem test_mid32_vectors :
    mid32 0x59 0x00 0x01 0x00 = 0x00590001 ∧ mid32 0x01 0x00 0x00 0x00 = 0x00010000 ∧
    mid32 0x00 0x01 0x00 0x00 = 0x01000000 ∧ mid32 0x00 0x00 0x01 0x00 = 0x00000001 ∧
    mid32 0x00 0x00 0x00 0x01 = 0x00000100 ∧ mid32 0x00 0x13 0x01 0x00 = 0x13000001 ∧
    mid32 0xFF 0xFF 0xFF 0xFF = 0xFFFFFFFF ∧
    ends (exec (.mid32 0x59 0x00 0x01 0x00) State.reset) (fun t => decide (t.answer = .mid32 0x00590001)) = true := by
  decide

/-- S1, V25 to V29e: the fields of an AppKey Status. -/
theorem test_appkey_vectors :
    appkeyOf (holding bufS1) 5 [0, 0x00, 0, 0x201, 0x040] = true ∧
    appkeyOf (holding [0x00, 0xFF, 0xFF, 0xFF, 0xFF]) 5 [0, 0x00, 0, 0xFFF, 0xFFF] = true ∧
    appkeyOf (holding [0x12, 0x00, 0xF0, 0x0F, 0x00]) 5 [0, 0x12, 18, 0x000, 0x000] = true ∧
    appkeyOf (holding [0x03, 0x34, 0x12, 0x60, 0xAB]) 5 [0, 0x03, 3, 0x234, 0xAB6] = true ∧
    appkeyOf (holding [0xFF, 0x00, 0x00, 0x00, 0x00]) 5 [0, 0xFF, 18, 0x000, 0x000] = true ∧
    appkeyOf (holding [0x11, 0xFF, 0x00, 0x00, 0x00]) 5 [0, 0x11, 17, 0x0FF, 0x000] = true := by decide

/-- V40 to V44: the lengths around 5, for both values of `APPKEY_OVERLENGTH`. -/
theorem test_appkey_lengths :
    failsWith (.decAppkey 0) (holding []) .truncatedPdu 1 = true ∧
    failsWith (.decAppkey 4) (holding bufS1) .truncatedPdu 1 = true ∧
    failsWith (.decAppkey 6) (holding (bufS1 ++ [0x05])) .invalidLength 2 = true ∧
    appkeyOf (tolerant (bufS1 ++ [0x05])) 6 [0, 0x00, 0, 0x201, 0x040] = true ∧
    failsWith (.decAppkey 4) (tolerant bufS1) .truncatedPdu 1 = true := by decide

/-- V30 and V33: fourteen bytes, a 16-bit identifier. -/
theorem test_modelpub_sig_vectors :
    fieldsOf .decModelpubSig (holding buf30) [0, 0, 0, 0x1234, 0x00, 0xC0, 0x456, 1, 5, 0x29, 5, 12, 0x1300, 0] = true ∧
    fieldsOf .decModelpubSig (holding buf32) [0, 7, 7, 0x0002, 0xFF, 0xFF, 0, 0, 0xFF, 0, 0, 0, 0x0059, 0] = true := by
  decide

/-- V31 and V32: sixteen bytes, a 32-bit identifier. -/
theorem test_modelpub_vnd_vectors :
    fieldsOf .decModelpubVnd (holding buf31)
      [0, 0, 0, 0x1234, 0x00, 0xC0, 0x456, 1, 5, 0x29, 5, 12, 0x13000001, 1] = true ∧
    fieldsOf .decModelpubVnd (holding buf32)
      [0, 7, 7, 0x0002, 0xFF, 0xFF, 0, 0, 0xFF, 0, 0, 0, 0x00590001, 1] = true := by decide

/-- V34, V35 and V36 through the parent row: a nibble that is neither 0 nor 1, and counts that are not negative. -/
theorem test_modelpub_vectors :
    fieldsOf (.decModelpub 14) (holding buf34)
      [0, 2, 2, 0x0105, 0x01, 0x00, 0xFFF, 14, 0x7F, 0x41, 7, 31, 0x1234, 0] = true ∧
    fieldsOf (.decModelpub 14) (holding (List.replicate 14 0xFF))
      [0, 0xFF, 18, 0xFFFF, 0xFF, 0xFF, 0xFFF, 15, 0xFF, 0xFF, 7, 31, 0xFFFF, 0] = true ∧
    fieldsOf (.decModelpub 16) (holding (List.replicate 16 0xFF))
      [0, 0xFF, 18, 0xFFFF, 0xFF, 0xFF, 0xFFF, 15, 0xFF, 0xFF, 7, 31, 0xFFFFFFFF, 1] = true := by decide

/-- V50 to V55: every other length. -/
theorem test_modelpub_lengths :
    failsWith (.decModelpub 0) (holding []) .invalidLength 2 = true ∧
    failsWith (.decModelpub 5) (holding bufS1) .invalidLength 2 = true ∧
    failsWith (.decModelpub 13) (holding buf30) .invalidLength 2 = true ∧
    failsWith (.decModelpub 15) (holding buf31) .invalidLength 2 = true ∧
    failsWith (.decModelpub 17) (holding buf31) .invalidLength 2 = true := by decide

/-- P3: the same leading bytes with the two accepted lengths and one that is turned away, at `MIDSEL`. -/
theorem test_midsel :
    ends (exec (.midsel 14) (holding buf31)) (fun t => decide (t.answer = .midsel (some ⟨0x1300, .bits16⟩))) = true ∧
    ends (exec (.midsel 16) (holding buf31)) (fun t => decide (t.answer = .midsel (some ⟨0x13000001, .bits32⟩))) = true ∧
    failsWith (.midsel 15) (holding buf31) .invalidLength 2 = true := by decide

/-- V80 and V87: the security fields of a base, and their zeros on an error. -/
theorem test_base :
    ends (exec (.base .appKeyStatus 5) (holding bufS1)) (fun t =>
      decide (t.answer = .base (some ⟨1, 0x2A, bufS1, 0x00, 0, "Success"⟩)) && decide (t.ports.akfOut = 1) &&
      decide (t.ports.aidOut = 0x2A)) = true ∧
    failsWith (.base .appKeyStatus 3) (holding bufS1) .truncatedPdu 1 = true ∧
    failsWith (.base .modelPublicationStatus 5) (holding bufS1) .invalidLength 2 = true := by decide

/-- V80, V81, V84 and V86. -/
theorem test_decode_op_constants :
    ends (exec (.decodeOp 0x00008003 5) (holding bufS1)) (fun t =>
      decide (t.ports.netKeyIndex = 0x201) && decide (t.ports.appKeyIndex = 0x040)) = true ∧
    fieldsOf (.decodeOp 0x00008019 14) (holding buf30)
      [0, 0, 0, 0x1234, 0x00, 0xC0, 0x456, 1, 5, 0x29, 5, 12, 0x1300, 0] = true ∧
    failsWith (.decodeOp 0x00008003 3) (holding bufS1) .truncatedPdu 1 = true ∧
    failsWith (.decodeOp 0x00008019 5) (holding bufS1) .invalidLength 2 = true := by decide

/-- V82, V83 and V85. -/
theorem test_decode_op_no_decoder :
    failsWith (.decodeOp 0x00008004 5) (holding bufS1) .noDecoder 4 = true ∧
    failsWith (.decodeOp 0x00018003 5) (holding bufS1) .noDecoder 4 = true ∧
    failsWith (.decodeOp 0x00000000 0) (holding []) .noDecoder 4 = true := by decide

/-- The rows of the status table end to end: each shows its own code. -/
theorem test_status_rows :
    (statusRows.all fun r => ends (exec r.1 State.reset) fun t => decide (t.ports.nameId.toNat = r.2)) = true := by
  decide

theorem test_status_default :
    ends (exec (.statusDefault 0xC7) State.reset) (fun t => decide (t.ports.nameId = 18) && decide (t.lookupName = "RFU")) =
      true := by decide

/-! ### The machine -/

/-- The caller's words for S1, V30 and a status code, as transactions. -/
def sendS1 : Transaction := ⟨⟨.pdu, [0x05, 0x00]⟩, bufS1, 1, 0x2A⟩

/-- V80. -/
def send80 : Transaction := ⟨⟨.frontEnd, [0x00, 0x00, 0x80, 0x03, 0x05, 0x00]⟩, bufS1, 1, 0x2A⟩

/-- P2, line 1. -/
def sendShort : Transaction := ⟨⟨.pdu, [0x03, 0x00]⟩, [0x00, 0x01, 0x02], 0, 0⟩

/-- P2, line 2 after line 1: an error leaves no trace. -/
theorem test_step_presents :
    ends (step { State.reset with pending := [sendShort, sendS1] }) (fun t =>
      decide (t.ports.result = 1) && decide (t.pending = [sendS1]) &&
      ends (step t) fun u => decide (u.ports.netKeyIndex = 0x201) && decide (u.ports.akfOut = 1)) = true := by decide

/-- R16: a 6-bit port carries 63 and no 64, and a wider port carries it. -/
theorem test_aid_width :
    ends (step { State.reset with pending := [{ sendS1 with aid := 63 }] }) (fun t => decide (t.ports.aidOut = 63)) = true ∧
    (step { State.reset with pending := [{ sendS1 with aid := 64 }] } matches .refused .aidTooWide) = true ∧
    ends (step { State.resetWith { Params.default with aidW := 8 } with pending := [{ sendS1 with aid := 64 }] })
      (fun t => decide (t.ports.aidOut = 64)) = true := by decide

/-- R14: the answer of one transaction is gone after the next. -/
theorem test_answer_is_not_kept :
    ends (step { State.reset with pending := [⟨⟨.base, [0x05, 0x00]⟩, bufS1, 0, 0⟩, sendS1, ⟨⟨.codeIn, [0x01]⟩, [], 0, 0⟩] }) (fun t =>
      decide (t.answer ≠ .silent) && ends (step t) fun u => decide (u.answer = .silent)) = true ∧
    ends (exec (.lookup 0x01) { State.reset with answer := .kidxA 1 }) (fun t => decide (t.answer = .silent)) = true := by
  decide

/-- R173: bytes beyond the length stay where they were, and nothing reads them. -/
theorem test_stale_bytes :
    ends (step { holding buf31 with pending := [sendS1] }) (fun t =>
      decide (t.ports.netKeyIndex = 0x201) && decide (readMem t.mem 12 = 0x00) && decide (readMem t.mem 13 = 0x13)) =
      true := by decide

theorem test_memory_canonical :
    Memory.wf (writeBytes [] 0 buf31) = true ∧ Memory.wf [(1, 0x01), (1, 0x02)] = false ∧
    Memory.wf [(2, 0x01), (1, 0x02)] = false ∧ Memory.wf [(0, 0x00)] = false ∧
    writeMem [(3, 0x07)] 3 0x00 = [] := by decide

/-! ### Witnesses: what meets the hypotheses of each obligation -/

/-- From a computed outcome to the next state it names. -/
theorem ends_next {o : Host.Outcome State Fault Refusal} {P : State → Prop} [DecidablePred P]
    (h : ends o (fun t => decide (P t)) = true) : ∃ t, o = .next t ∧ P t := by
  cases o with
  | next t => exact ⟨t, rfl, of_decide_eq_true h⟩
  | fault f => cases h
  | refused r => cases h

/-- An instance whose defaults R162 admits, and one with the other overlength. -/
theorem witness_instances : instantiable State.reset.params = true ∧ instantiable (tolerant []).params = true := by decide

theorem witness_LookupAnswersVariantAndName : instantiable State.reset.params = true ∧
    variantNat 0x11 = 17 ∧ variantNat 0x12 = 18 ∧ variantNat 0x13 = 18 ∧ variantNat 0xFF = 18 := by decide

theorem witness_StatusRowsAnswerTheirEntry : instantiable State.reset.params = true ∧
    (Instr.status00, 0) ∈ statusRows ∧ (Instr.status17, 17) ∈ statusRows ∧ (Instr.status18, 18) ∈ statusRows := by decide

theorem witness_DefaultArmAnswersReserved : instantiable State.reset.params = true ∧
    0x13 ≤ (0x13 : Byte).toNat ∧ 0x13 ≤ (0xFF : Byte).toNat := by decide

theorem witness_StatusCodesSelectRows : instantiable State.reset.params = true ∧
    (0x00 : Byte).toNat ≤ 0x11 ∧ (0x11 : Byte).toNat ≤ 0x11 ∧ (0x12 : Byte).toNat = 0x12 ∧
    0x13 ≤ (0x13 : Byte).toNat ∧ (Instr.status18, 18) ∈ statusRows := by decide

theorem witness_FixedNamesAreAnswered : instantiable State.reset.params = true ∧
    (0x00 : Byte) = 0 ∧ 0x12 ≤ (0x12 : Byte).toNat ∧ 0x12 ≤ (0xFF : Byte).toNat := by decide

theorem witness_ModelIdAssembliesRoundTrip : mid16 0x00 0x13 = mid16 0x00 0x13 ∧
    mid32 0x59 0x00 0x01 0x00 = mid32 0x59 0x00 0x01 0x00 := by decide

theorem witness_MidselChoosesByLength : instantiable (holding buf31).params = true := by decide

theorem witness_MidselTurnedAwayOnOtherLengths :
    (13 ≠ 14 ∧ 13 ≠ 16) ∧ (15 ≠ 14 ∧ 15 ≠ 16) ∧ (17 ≠ 14 ∧ 17 ≠ 16) := by decide

theorem witness_AppKeyStatusDecoded : instantiable (holding bufS1).params = true ∧ 0 < 5 ∧ 4 < 5 := by decide

theorem witness_AppKeyOverlengthByParameter :
    (instantiable (holding bufS1).params = true ∧ 5 < 6 ∧ (holding bufS1).params.appkeyOverlength = .reject) ∧
    (instantiable (tolerant bufS1).params = true ∧ 5 < 6 ∧ (tolerant bufS1).params.appkeyOverlength = .ignoreTail) := by
  decide

theorem witness_TruncatedPduExactlyForShortAppKey :
    (∃ t, exec (.decAppkey 4) (holding bufS1) = .next t ∧ t.returned = .err .truncatedPdu) ∧
    (∃ t, exec (.base .appKeyStatus 4) (holding bufS1) = .next t ∧ t.returned = .err .truncatedPdu) ∧
    (∃ t, exec (.decodeOp 0x8003 4) (holding bufS1) = .next t ∧ t.returned = .err .truncatedPdu) ∧
    (∃ t, exec (.decAppkey 5) (holding bufS1) = .next t ∧ t.returned ≠ .err .truncatedPdu) ∧
    (∃ t, exec (.decModelpub 4) (holding bufS1) = .next t ∧ t.returned ≠ .err .truncatedPdu) :=
  ⟨ends_next (by decide), ends_next (by decide), ends_next (by decide), ends_next (by decide),
    ends_next (by decide)⟩

/-- V23: a buffer whose ignored nibbles are zero, and S1, whose are not. -/
theorem witness_AppKeyPackingRoundTrips :
    (instantiable (holding [0x06, 0xCD, 0x0B, 0xA0, 0x7F]).params = true ∧ ∀ i, i < 5 →
      (packAk5 0x06 0xBCD 0x7FA)[i]? = some (readMem (holding [0x06, 0xCD, 0x0B, 0xA0, 0x7F]).mem i)) ∧
    (∃ t, exec (.decAppkey 5) (holding bufS1) = .next t ∧
      t.returned = .ok (.appKeyStatus ⟨⟨1, 0x2A, bufS1, 0, 0, "Success"⟩, 0x201, 0x040⟩)) :=
  ⟨by decide, ends_next (by decide)⟩

theorem witness_ModelPubSigDecoded : instantiable (holding buf30).params = true ∧
    (Instr.decModelpub 14 = .decModelpub 14 ∨ Instr.decModelpub 14 = .decModelpubSig) ∧
    (Instr.decModelpubSig = .decModelpub 14 ∨ Instr.decModelpubSig = .decModelpubSig) := by decide

theorem witness_ModelPubVndDecoded : instantiable (holding buf31).params = true ∧
    (Instr.decModelpub 16 = .decModelpub 16 ∨ Instr.decModelpub 16 = .decModelpubVnd) ∧
    (Instr.decModelpubVnd = .decModelpub 16 ∨ Instr.decModelpubVnd = .decModelpubVnd) := by decide

theorem witness_ModelPubDecodedOrInvalidLength : instantiable (holding buf31).params = true ∧
    (14 = 14 ∨ 14 = 16) ∧ (16 = 14 ∨ 16 = 16) ∧ (15 ≠ 14 ∧ 15 ≠ 16) ∧ (13 ≠ 14 ∧ 13 ≠ 16) := by decide

theorem witness_ModelIdWidthFollowsLength : instantiable (holding buf31).params = true ∧ 14 = 14 ∧ 16 = 16 ∧
    (15 ≠ 14 ∧ 15 ≠ 16) := by decide

theorem witness_LongerBufferKeepsEveryOtherField : instantiable (holding buf31).params = true := by decide

theorem witness_EveryMessageCarriesItsBase :
    (pduLen (.decAppkey 5) = some 5 ∧ ∃ t, exec (.decAppkey 5) (holding bufS1) = .next t ∧
      t.returned = .ok (.appKeyStatus ⟨⟨1, 0x2A, bufS1, 0, 0, "Success"⟩, 0x201, 0x040⟩)) ∧
    (pduLen (.decAppkey 6) = some 6 ∧ ∃ t, exec (.decAppkey 6) (tolerant (bufS1 ++ [0x05])) = .next t ∧
      t.returned = .ok (.appKeyStatus ⟨⟨1, 0x2A, bufS1 ++ [0x05], 0, 0, "Success"⟩, 0x201, 0x040⟩)) :=
  ⟨⟨rfl, ends_next (by decide)⟩, rfl, ends_next (by decide)⟩

theorem witness_BaseOfAnAcceptedBuffer :
    (instantiable (holding bufS1).params = true ∧ accepts (holding bufS1).params .appKeyStatus 5 = true) ∧
    (instantiable (tolerant bufS1).params = true ∧ accepts (tolerant bufS1).params .appKeyStatus 6 = true) ∧
    accepts (holding buf30).params .modelPublicationStatus 14 = true ∧
    accepts (holding buf31).params .modelPublicationStatus 16 = true := by decide

/-- `AID_W` = 6: 63 is the last value of the port, and 64 is refused. -/
theorem witness_AidPassesAtItsWidth :
    (pduLen (.decAppkey 5) = some 5 ∧ (holding bufS1).inputs.aid < 2 ^ (holding bufS1).params.aidW ∧
      ∃ t, exec (.decAppkey 5) (holding bufS1) = .next t ∧ t.ports.aidOut = 0x2A ∧ t.returned =
        .ok (.appKeyStatus ⟨⟨1, 0x2A, bufS1, 0, 0, "Success"⟩, 0x201, 0x040⟩)) ∧
    (instantiable State.reset.params = true ∧ decode 9 sendS1.words = .ok (.decAppkey 5) ∧
      takesBuffer sendS1.words.port = true ∧ 2 ^ State.reset.params.aidW ≤ ({ sendS1 with aid := 64 } : Transaction).aid) :=
  ⟨⟨rfl, by decide, ends_next (by decide)⟩, by decide⟩

theorem witness_BaseNotEvaluatedOnError :
    accepts (holding bufS1).params .appKeyStatus 4 = false ∧ accepts (holding bufS1).params .appKeyStatus 6 = false ∧
    accepts (holding buf31).params .modelPublicationStatus 15 = false ∧
    accepts (holding buf31).params .modelPublicationStatus 13 = false := by decide

theorem witness_DecodeSelectsByOpcode : instantiable State.reset.params = true ∧
    (0x8003 : BitVec 32) = State.reset.params.opcAppkeyStatus ∧
    (0x8019 : BitVec 32) = State.reset.params.opcModelPubStatus ∧
    (0x18003 : BitVec 32) ≠ State.reset.params.opcAppkeyStatus ∧
    (0x18003 : BitVec 32) ≠ State.reset.params.opcModelPubStatus := by decide

theorem witness_DecodeCompletesForBothConstants : instantiable (holding buf31).params = true ∧
    (14 = 14 ∨ 14 = 16) ∧ (16 = 14 ∨ 16 = 16) := by decide

/-- S1 on the direct path and V80 on the other, both with the words of their own ports. -/
theorem witness_DirectAndOpcodePathsAgree : 5 < 2 ^ State.reset.params.lenW ∧
    sendS1.words = ⟨.pdu, leBytes (selBytes State.reset.params.lenW) (selWord State.reset.params.lenW .appKeyStatus 5)⟩ ∧
    send80.words = encode State.reset.params.lenW (.decodeOp (opcodeOf State.reset.params .appKeyStatus) 5) ∧
    sendS1.buffer = send80.buffer ∧ sendS1.akf = send80.akf ∧ sendS1.aid = send80.aid ∧
    (∃ u, step { State.reset with pending := [sendS1] } = .next u ∧ u.ports.result = 0) ∧
    (∃ v, step { State.reset with pending := [send80] } = .next v ∧ v.ports.result = 0) :=
  ⟨by decide, by decide, by decide, by decide, by decide, by decide, ends_next (by decide), ends_next (by decide)⟩

/-- Input ports of the given kind and length on the direct path. -/
def inputsOf (kind : Kind) (len : Nat) : Inputs := { Inputs.reset with kind := kind, len := len }

/-- The same behind the front end. -/
def inputsBy (opcode : BitVec 32) (len : Nat) : Inputs :=
  { Inputs.reset with path := .frontEnd, opcode := opcode, len := len }

/-- Every clause at the lengths where it meets its neighbours, on both fronts and for both values of `APPKEY_OVERLENGTH`. -/
theorem witness_OutcomeTableIsComplete :
    (instantiable Params.default = true ∧ instantiable (tolerant []).params = true) ∧
    declaredKind Params.default (inputsBy 0x8004 5) = none ∧
    ([0, 4].all fun len => decide (declaredKind Params.default (inputsOf .appKeyStatus len) = some .appKeyStatus ∧
      (inputsOf .appKeyStatus len).len < 5)) = true ∧
    (declaredKind Params.default (inputsOf .appKeyStatus 5) = some .appKeyStatus ∧
      declaredKind Params.default (inputsBy 0x8003 5) = some .appKeyStatus ∧ (inputsOf .appKeyStatus 5).len = 5) ∧
    ([Params.default, (tolerant []).params].all fun prm =>
      decide (declaredKind prm (inputsOf .appKeyStatus 6) = some .appKeyStatus ∧ 5 < (inputsOf .appKeyStatus 6).len)) = true ∧
    (Params.default.appkeyOverlength = .reject ∧ (tolerant []).params.appkeyOverlength = .ignoreTail) ∧
    ([14, 16].all fun len => decide (
      declaredKind Params.default (inputsOf .modelPublicationStatus len) = some .modelPublicationStatus ∧
      declaredKind Params.default (inputsBy 0x8019 len) = some .modelPublicationStatus ∧
      ((inputsBy 0x8019 len).len = 14 ∨ (inputsBy 0x8019 len).len = 16))) = true ∧
    ([5, 13, 15, 17].all fun len => decide (
      declaredKind Params.default (inputsOf .modelPublicationStatus len) = some .modelPublicationStatus ∧
      (inputsOf .modelPublicationStatus len).len ≠ 14 ∧ (inputsOf .modelPublicationStatus len).len ≠ 16)) = true := by
  decide

theorem witness_StatusCodeGatesNothing : pduLen (.decAppkey 5) = some 5 ∧
    (∀ j, j ≠ 0 → readMem [(0, 0xC7)] j = readMem (holding []).mem j) ∧
    (∃ t, exec (.decAppkey 5) (holding []) = .next t ∧ t.ports.statusVariant = 0) ∧
    (∃ t, exec (.decAppkey 5) { holding [] with mem := [(0, 0xC7)] } = .next t ∧ t.ports.statusVariant = 18) := by
  refine ⟨rfl, fun j hj => ?_, ends_next (by decide), ends_next (by decide)⟩
  simp [readMem, holding, writeBytes, Ne.symm hj]

theorem witness_ErrorDeliveredAlone :
    (pduLen (.decModelpub 13) = some 13 ∧
      ∃ t, exec (.decModelpub 13) (holding buf30) = .next t ∧ t.returned = .err .invalidLength) ∧
    (pduLen (.decodeOp 0 5) = some 5 ∧ ∃ t, exec (.decodeOp 0 5) (holding bufS1) = .next t ∧ t.returned = .err .noDecoder) :=
  ⟨⟨rfl, ends_next (by decide)⟩, rfl, ends_next (by decide)⟩

theorem witness_ResultPortTagsTheOutcome :
    (∃ t, exec (.decAppkey 5) (holding bufS1) = .next t ∧ t.ports.result = 0) ∧
    (∃ t, exec (.decAppkey 4) (holding bufS1) = .next t ∧ t.ports.result = 1) ∧
    (∃ t, exec (.decAppkey 6) (holding bufS1) = .next t ∧ t.ports.result = 2) ∧
    (∃ t, exec (.decodeOp 0 5) (holding bufS1) = .next t ∧ t.ports.result = 4) :=
  ⟨ends_next (by decide), ends_next (by decide), ends_next (by decide), ends_next (by decide)⟩

/-- A state that no run reaches holds the error, and a step of a small unit leaves it there. -/
theorem witness_UnrecognizedStatusCodeNeverProduced :
    ∃ t, step { State.reset with returned := .err .unrecognizedStatusCode,
                                 pending := [⟨⟨.kidxA, [0x01, 0x02]⟩, [], 0, 0⟩] } = .next t ∧
      t.returned = .err .unrecognizedStatusCode := ends_next (by decide)

theorem witness_ErrorsReadNoByte : pduLen (.midsel 15) = some 15 ∧
    ∃ t, exec (.midsel 15) (holding buf31) = .next t ∧ t.returned = .err .invalidLength :=
  ⟨rfl, ends_next (by decide)⟩

theorem witness_BytesBeyondLengthAreUnread : pduLen .decModelpubSig = some 14 ∧
    SameBytes 14 (holding buf31).mem (holding buf30).mem ∧ readMem (holding buf31).mem 14 ≠ readMem (holding buf30).mem 14 ∧
    ∃ t, exec .decModelpubSig (holding buf31) = .next t ∧ t.ports.modelIdentifier = 0x1300 :=
  ⟨rfl, by unfold SameBytes; decide, by decide, ends_next (by decide)⟩

/-- `ignore_tail` with 17 bytes that differ in the last. -/
theorem witness_WindowDecidesThePorts : pduLen (.decAppkey 17) = some 17 ∧
    window (tolerant (buf31 ++ [0x01])).mem = window (tolerant (buf31 ++ [0x02])).mem ∧
    readMem (tolerant (buf31 ++ [0x01])).mem 16 ≠ readMem (tolerant (buf31 ++ [0x02])).mem 16 ∧
    (∃ t, exec (.decAppkey 17) (tolerant (buf31 ++ [0x01])) = .next t ∧ t.ports.result = 0) ∧
    (∃ t, exec (.decAppkey 17) (tolerant (buf31 ++ [0x02])) = .next t ∧ t.ports.result = 0) :=
  ⟨rfl, by decide, by decide, ends_next (by decide), ends_next (by decide)⟩

/-- V26 against zeros, and V32 against itself with the three bytes cleared. -/
theorem witness_IgnoredBitsReachNoPort :
    (SameBytes 2 (holding [0x12, 0x00, 0xF0, 0x0F]).mem (holding [0x12]).mem ∧
      readMem (holding [0x12, 0x00, 0xF0, 0x0F]).mem 4 = readMem (holding [0x12]).mem 4 ∧
      readMem (holding [0x12, 0x00, 0xF0, 0x0F]).mem 2 &&& 0x0F#8 = readMem (holding [0x12]).mem 2 &&& 0x0F#8 ∧
      readMem (holding [0x12, 0x00, 0xF0, 0x0F]).mem 3 &&& 0xF0#8 = readMem (holding [0x12]).mem 3 &&& 0xF0#8 ∧
      (∃ t, exec (.decAppkey 5) (holding [0x12, 0x00, 0xF0, 0x0F]) = .next t ∧ t.ports.result = 0) ∧
      (∃ t, exec (.decAppkey 5) (holding [0x12]) = .next t ∧ t.ports.result = 0)) ∧
    ((∀ j, j < 16 → j ≠ 9 → j ≠ 10 → j ≠ 11 →
        readMem (holding buf32).mem j = readMem (writeBytes (holding buf32).mem 9 [0x00, 0x00, 0x00]) j) ∧
      (∃ t, exec (.decModelpub 16) (holding buf32) = .next t ∧ t.ports.result = 0) ∧
      (∃ t, exec (.decModelpub 16) { holding buf32 with mem := writeBytes (holding buf32).mem 9 [0x00, 0x00, 0x00] } = .next t ∧
        t.ports.result = 0)) :=
  ⟨⟨by unfold SameBytes; decide, by decide, by decide, by decide, ends_next (by decide), ends_next (by decide)⟩,
    by decide, ends_next (by decide), ends_next (by decide)⟩

/-- Two machines that differ in the outputs, the opcode port and a stale byte. -/
theorem witness_DecodingTwiceGivesTheSameResult :
    (Instr.decAppkey 5 = .decAppkey 5 ∨ Instr.decAppkey 5 = .decModelpub 5) ∧
    (tolerant bufS1).params = (tolerant (bufS1 ++ [0x77])).params ∧
    (tolerant bufS1).inputs.akf = (tolerant (bufS1 ++ [0x77])).inputs.akf ∧
    (tolerant bufS1).inputs.aid = (tolerant (bufS1 ++ [0x77])).inputs.aid ∧
    SameBytes 5 (tolerant (bufS1 ++ [0x77])).mem (tolerant bufS1).mem ∧
    (∃ t, exec (.decAppkey 5) (tolerant (bufS1 ++ [0x77])) = .next t ∧ t.ports.result = 0) ∧
    (∃ t, exec (.decAppkey 5) (tolerant bufS1) = .next t ∧ t.ports.result = 0) :=
  ⟨by decide, by decide, by decide, by decide, by unfold SameBytes; decide, ends_next (by decide),
    ends_next (by decide)⟩

theorem witness_NoOperationWritesItsInputs :
    ∃ t, exec (.decModelpub 16) (holding buf31) = .next t ∧ t.ports.result = 0 := ends_next (by decide)

theorem witness_NameTableIsConstant :
    instantiable { Params.default with lenW := 5 } = true ∧
    ∃ t, step { State.reset with pending := [sendS1] } = .next t ∧ t.pending = [] := ⟨by decide, ends_next (by decide)⟩

theorem witness_EveryOperationCompletes : instantiable (tolerant []).params = true := by decide

theorem witness_EveryStepCompletes : instantiable State.reset.params = true ∧
    ∀ t rest, ({ State.reset with pending := [sendS1] } : State).pending = t :: rest →
      presentable State.reset.params t = true := by
  refine ⟨by decide, fun t rest h => ?_⟩
  cases h; decide

/-- One instance for each ground of R162. -/
theorem witness_BadInstancesAreRefused :
    ({ Params.default with opcModelPubStatus := 0x8003 } : Params).opcAppkeyStatus =
      ({ Params.default with opcModelPubStatus := 0x8003 } : Params).opcModelPubStatus ∧
    ({ Params.default with nameTable := [] } : Params).nameTable.length ≠ 19 ∧
    ({ Params.default with nameTable := List.replicate 19 "RFU" } : Params).nameTable[0]? ≠ some "Success" ∧
    ({ Params.default with nameTable := List.replicate 19 "Success" } : Params).nameTable[18]? ≠ some "RFU" ∧
    ({ Params.default with lookupTotal := false } : Params).lookupTotal = false := by decide

theorem witness_StepRunsTheDecodedOperation : instantiable State.reset.params = true ∧
    ({ State.reset with pending := [sendS1, send80] } : State).pending = sendS1 :: [send80] ∧
    decode State.reset.params.lenW sendS1.words = .ok (.decAppkey 5) ∧ carried State.reset.params sendS1 = true := by
  decide

theorem witness_PresentingAPduDrivesItsPorts : (holding buf31).mem.wf = true ∧ 5 < 2 ^ (holding buf31).params.lenW ∧
    sendS1.words = ⟨.pdu, leBytes (selBytes (holding buf31).params.lenW)
      (selWord (holding buf31).params.lenW .appKeyStatus 5)⟩ ∧
    0 < sendS1.buffer.length ∧ 4 < sendS1.buffer.length ∧ sendS1.buffer.length ≤ 5 := by decide

/-- Reset with a transaction pending is a consistent state that steps. -/
theorem witness_StepKeepsOutputsConsistent : Consistent { State.reset with pending := [sendS1] } ∧
    ∃ t, step { State.reset with pending := [sendS1] } = .next t ∧ t.ports.result = 0 :=
  ⟨⟨by decide, by decide, by decide, by decide⟩, ends_next (by decide)⟩

theorem witness_IdleStepSettlesTheOutputs : instantiable (holding bufS1).params = true ∧
    (holding bufS1).mem.wf = true ∧ (holding bufS1).inputs.aid < 2 ^ (holding bufS1).params.aidW ∧
    (holding bufS1).pending = [] := by decide

theorem witness_StepKeepsMemoryCanonical : ({ holding buf31 with pending := [sendS1] } : State).mem.wf = true ∧
    ∃ t, step { holding buf31 with pending := [sendS1] } = .next t ∧ t.pending = [] :=
  ⟨by decide, ends_next (by decide)⟩

/-- Code 0x12. -/
def sendCode : Transaction := ⟨⟨.statusRow, [0x12]⟩, [], 0, 0⟩

/-- V16. -/
def sendKidxA : Transaction := ⟨⟨.kidxA, [0xCD, 0x0B]⟩, [], 0, 0⟩

/-- A machine that holds an error, another buffer and another answer (P2). -/
def used (t : Transaction) : State :=
  { holding buf32 with pending := [t], returned := .err .invalidLength, answer := .mid16 0x1234 }

theorem witness_ResultsDoNotDependOnHistory :
    (used sendS1).params = ({ State.reset with pending := [sendS1, send80] } : State).params ∧
    State.reset.mem.wf = true ∧ (used sendS1).mem.wf = true ∧
    (decode 9 sendS1.words = .ok (.decAppkey 5) ∧ pduLen (.decAppkey 5) = some 5 ∧ sendS1.buffer.length = 5) ∧
    (decode 9 sendCode.words = .ok .status18 ∧ pduLen .status18 = none ∧ sendCode.words.port = .statusRow) ∧
    (∃ u, step { State.reset with pending := [sendS1, send80] } = .next u ∧ u.ports.result = 0) ∧
    (∃ u, step (used sendS1) = .next u ∧ u.ports.result = 0 ∧ u.answer = .silent) ∧
    (∃ u, step (used sendCode) = .next u ∧ u.ports.nameId = 18 ∧ u.answer = .silent) ∧
    (∃ u, step (used sendKidxA) = .next u ∧ u.answer = .kidxA 0xBCD) :=
  ⟨by decide, by decide, by decide, by decide, by decide, ends_next (by decide), ends_next (by decide),
    ends_next (by decide), ends_next (by decide)⟩

theorem witness_DecodeInvertsEncode : (Instr.statusDefault 0x13).wf 9 = true ∧ (Instr.decModelpub 511).wf 9 = true ∧
    (Instr.decAppkey 0).wf 0 = true ∧ (Instr.base .modelPublicationStatus 14).wf 4 = true ∧
    (Instr.decodeOp 0xFFFFFFFF 511).wf 9 = true ∧ (Instr.mid32 0x59 0x00 0x01 0x00).wf 9 = true := by decide

theorem witness_EncodeInvertsDecode : decode 9 ⟨.pdu, [0x10, 0x02]⟩ = .ok .decModelpubVnd ∧
    decode 9 ⟨.frontEnd, [0x00, 0x00, 0x80, 0x19, 0x0E, 0x00]⟩ = .ok (.decodeOp 0x8019 14) := by decide

theorem witness_DecodedOperationsAreWellFormed : decode 9 ⟨.pdu, [0x0F, 0x02]⟩ = .ok (.decModelpub 15) ∧
    decode 4 ⟨.pdu, [0x10]⟩ = .ok (.decModelpub 0) := by decide

theorem witness_WrongWidthsAreRefused : ([0x01] : List Byte).length ≠ portBytes 9 .kidxA ∧
    ([] : List Byte).length ≠ portBytes 9 .codeIn ∧ ([0x05] : List Byte).length ≠ portBytes 9 .pdu ∧
    ([0x00, 0x00, 0x80, 0x03] : List Byte).length ≠ portBytes 9 .frontEnd := by decide

theorem witness_SelectorRowsMatchTheTable : 0x005 < 1024 ∧ 0x20E < 1024 ∧ 0x210 < 1024 ∧ 0x3FF < 1024 ∧
    0x3FF &&& 0x200 = 0x200 ∧ 0x006 &&& 0x200 = 0 ∧ 0x3FF < 2 ^ (9 + 1) ∧ 0x30 < 2 ^ (5 + 1) := by decide

/-- Instances with other parameters than the default. -/
theorem witness_ResetShowsTheEmptyBuffer : instantiable (tolerant []).params = true ∧
    instantiable { Params.default with aidW := 8, lenW := 12, opcAppkeyStatus := 0x01 } = true := by decide

theorem witness_ResetIsConsistent : instantiable { Params.default with aidW := 0, lenW := 5 } = true := by decide

end Sys2Proof.Tests
end

section
/-! PROOF. What an operation can do, by its unit (spec/10_state.md rules R20 and R24): the stand-alone lookup, the small units
and the decode of a PDU. -/

namespace Sys2Proof.Machine

/-- A sequence succeeds exactly when its first action does and the rest does on what that answered. -/
theorem except_bind_eq_ok {ε α β : Type} {x : Except ε α} {f : α → Except ε β} {b : β} :
    (x >>= f) = .ok b ↔ ∃ a, x = .ok a ∧ f a = .ok b := by
  cases x with
  | ok a => simp
  | error e => exact iff_of_false (fun h => nomatch h) fun ⟨_, h, _⟩ => nomatch h

/-! ### What each operation does to the state -/

/-- R83: the kind that an opcode selects, none for an opcode with no decoder. -/
def opcodeKind (prm : Params) (opcode : BitVec 32) : Option Kind :=
  if opcode = prm.opcAppkeyStatus then some .appKeyStatus
  else if opcode = prm.opcModelPubStatus then some .modelPublicationStatus
  else none

/-- The kind as which an operation decodes its buffer. -/
def pduKind (prm : Params) : Instr → Option Kind
  | .decAppkey _ => some .appKeyStatus
  | .midsel _ | .decModelpub _ | .decModelpubSig | .decModelpubVnd => some .modelPublicationStatus
  | .base kind _ => some kind
  | .decodeOp opcode _ => opcodeKind prm opcode
  | _ => none

/-- The answer that an operation which decodes a PDU gives on its own (log 10). -/
def pduReply : Instr → Result → Answer
  | .midsel _ => fun r => .midsel (midselOf r)
  | .base _ _ => fun r => .base (baseAnswer r)
  | _ => noReply

/-- The decode of a buffer as a kind, `NoDecoder` where there is none (R81, R83). -/
def decodeAs (prm : Params) (inp : Inputs) (m : Memory) (len : Nat) : Option Kind → Except Fault Result
  | some kind => decodeKind prm inp m kind len
  | none => .ok (.err .noDecoder)

theorem decodeOpcode_eq_decodeAs (prm : Params) (inp : Inputs) (m : Memory) (opcode : BitVec 32) (len : Nat) :
    decodeOpcode prm inp m opcode len = decodeAs prm inp m len (opcodeKind prm opcode) := by
  unfold decodeOpcode opcodeKind
  split
  · rfl
  · split <;> rfl

/-- Every operation on a PDU commits the decode of its buffer as its kind. -/
theorem exec_of_pduLen {i : Instr} {len : Nat} (s : State) (h : pduLen i = some len) :
    exec i s = commit s (pduReply i) (decodeAs s.params s.inputs s.mem len (pduKind s.params i)) := by
  cases i with
  | decodeOp opcode len' =>
    cases h
    exact congrArg (commit s noReply) (decodeOpcode_eq_decodeAs ..)
  | midsel | decAppkey | decModelpub | decModelpubSig | decModelpubVnd | base => cases h; rfl
  | _ => cases h

/-- Every other operation shows a variant of the lookup or gives the answer of a small unit. -/
theorem exec_of_pduLen_none {i : Instr} (s : State) (h : pduLen i = none) :
    (∃ v, exec i s = showVariant v s) ∨ ∃ a, exec i s = .next (replying s a) := by
  cases i with
  | midsel | decAppkey | decModelpub | decModelpubSig | decModelpubVnd | base | decodeOp => cases h
  | kidxA | kidxB | mid16 | mid32 => exact .inr ⟨_, rfl⟩
  | _ => exact .inl ⟨_, rfl⟩

/-- All that an operation on a PDU can do. -/
theorem exec_pdu_next {i : Instr} {s t : State} {len : Nat} (hlen : pduLen i = some len) (h : exec i s = .next t) :
    ∃ r, decodeAs s.params s.inputs s.mem len (pduKind s.params i) = .ok r ∧
      t = replying (deliver s r) (pduReply i r) :=
  commit_next (exec_of_pduLen s hlen ▸ h)

/-- R20, R30: what no operation writes. -/
theorem exec_frame {i : Instr} {s t : State} (h : exec i s = .next t) :
    t.params = s.params ∧ t.pending = s.pending ∧ t.inputs = s.inputs ∧ t.mem = s.mem := by
  cases hlen : pduLen i with
  | some len =>
    obtain ⟨r, -, rfl⟩ := exec_pdu_next hlen h
    simp
  | none =>
    obtain ⟨v, hv⟩ | ⟨a, ha⟩ := exec_of_pduLen_none s hlen
    · obtain ⟨name, -, rfl⟩ := showVariant_next (hv ▸ h)
      simp
    · cases ha.symm.trans h
      simp

/-- R13: no step changes a build-time parameter. -/
theorem step_params {s t : State} (h : step s = .next t) : t.params = s.params := by
  obtain ⟨-, ⟨-, hsettle⟩ | ⟨x, rest, i, -, -, -, hexec⟩⟩ := step_next h
  · obtain ⟨o, -, rfl⟩ := settle_next hsettle
    rfl
  · obtain ⟨hparams, -⟩ := exec_frame hexec
    rw [hparams, present_params]

/-- R162: parameters that are admitted come with a name for each variant. -/
theorem nameTable_length {prm : Params} (h : instantiable prm = true) : prm.nameTable.length = 19 := by
  obtain ⟨-, hlength, -⟩ := (instantiable_iff prm).mp h
  exact hlength

/-! ### The base of a decoded message -/

/-- All that reading the name space can answer. -/
theorem nameOf_eq_ok {prm : Params} {v : BitVec 5} {name : String} (h : nameOf prm v = .ok name) :
    prm.nameTable[v.toNat]? = some name := by
  unfold nameOf at h
  split at h
  · cases h
    assumption
  · cases h

/-- R71: the variant as the number it is said to equal. -/
theorem variant_eq_ofNat (c : Byte) : variant c = BitVec.ofNat 5 (variantNat c) := by
  apply BitVec.eq_of_toNat_eq
  rw [variant_toNat, BitVec.toNat_ofNat, variantNat]
  omega

/-- All that the message base can answer: the record of R24. -/
theorem makeBase_eq_ok {s : State} {len : Nat} {b : Base} (h : makeBase s.params s.inputs s.mem len = .ok b) :
    ∃ name, s.params.nameTable[variantNat (readMem s.mem 0)]? = some name ∧ b = baseFor s len name := by
  simp only [makeBase, except_bind_eq_ok, except_pure, Except.ok.injEq] at h
  obtain ⟨c, hread, name, hname, rfl⟩ := h
  obtain ⟨-, rfl⟩ := memRead_eq_ok hread
  refine ⟨name, ?_, ?_⟩
  · rw [variantNat, ← variant_toNat]
    exact nameOf_eq_ok hname
  · simp [baseFor, aidOf, variant_eq_ofNat]

/-- R100: a decoded AppKey Status message carries the base of its buffer. -/
theorem decAppkey_base {prm : Params} {inp : Inputs} {m : Memory} {len : Nat} {msg : ConfigStatusMessage}
    (h : decAppkey prm inp m len = .ok (.ok msg)) : makeBase prm inp m len = .ok (baseOf msg) := by
  unfold decAppkey at h
  split at h
  · cases h
  · split at h
    · cases h
    · simp only [except_bind_eq_ok, except_pure, Except.ok.injEq, Result.ok.injEq] at h
      obtain ⟨base, hbase, p1, -, p2, -, p3, -, p4, -, rfl⟩ := h
      exact hbase

/-- R120: a decoded Model Publication Status message carries the base of its buffer. -/
theorem decModelpub_base {prm : Params} {inp : Inputs} {m : Memory} {len : Nat} {msg : ConfigStatusMessage}
    (h : decModelpub prm inp m len = .ok (.ok msg)) : makeBase prm inp m len = .ok (baseOf msg) := by
  unfold decModelpub at h
  split at h
  · cases h
  · simp only [except_bind_eq_ok, except_pure, Except.ok.injEq, Result.ok.injEq] at h
    obtain ⟨base, hbase, p1, -, p2, -, p3, -, p4, -, p5, -, p6, -, p7, -, p8, -, p9, -, p11, -, modelId, -, rfl⟩ := h
    exact hbase

/-- R24: a decoded message of either kind carries the base of its buffer. -/
theorem decodeAs_base {prm : Params} {inp : Inputs} {m : Memory} {len : Nat} {kind : Option Kind}
    {msg : ConfigStatusMessage} (h : decodeAs prm inp m len kind = .ok (.ok msg)) :
    makeBase prm inp m len = .ok (baseOf msg) := by
  match kind with
  | none => cases h
  | some .appKeyStatus => exact decAppkey_base h
  | some .modelPublicationStatus => exact decModelpub_base h

/-- Settles O24: every operation on a PDU commits a decode, and a decode that yields a message evaluated the base. -/
theorem everyMessageCarriesItsBase : Obligations.EveryMessageCarriesItsBase := by
  intro i s t len msg hlen hexec hmsg
  obtain ⟨r, hdecode, rfl⟩ := exec_pdu_next hlen hexec
  obtain rfl : r = .ok msg := by simpa using hmsg
  exact makeBase_eq_ok (decodeAs_base hdecode)

/-- Settles O40: a step starts from admitted parameters only, and no step changes its parameters. -/
theorem nameTableIsConstant : Obligations.NameTableIsConstant := by
  refine ⟨fun prm hprm => nameTable_length hprm, fun s t h => ?_⟩
  obtain ⟨hinst, -⟩ := step_next h
  exact ⟨nameTable_length hinst, congrArg Params.nameTable (step_params h), step_params h⟩

end Sys2Proof.Machine
end

section
/-! PROOF. What no operation writes: the parameter space, the name table and the node context (spec/20_memory.md rule R30). -/

namespace Sys2Proof.Machine

/-- Settles O39: the frame of every operation, with the buffer read byte by byte and the name table taken from the
parameters. -/
theorem noOperationWritesItsInputs : Obligations.NoOperationWritesItsInputs := by
  intro i s t h
  obtain ⟨hparams, hpending, hinputs, hmem⟩ := exec_frame h
  have hbyte (a : Nat) : readMem t.mem a = readMem s.mem a := by rw [hmem]
  have hnames : t.params.nameTable = s.params.nameTable := by rw [hparams]
  exact ⟨hbyte, hmem, hnames, hparams, hinputs, hpending⟩

end Sys2Proof.Machine
end

section
/-! PROOF. The three-way partition of the status codes (spec/30_encoding.md rule R54): what a code answers at the lookup and
the row it selects at the table. -/

namespace Sys2Proof.Machine

/-! ### What the lookup of a code answers -/

/-- What the stand-alone lookup shows for a variant that has a name. -/
theorem showVariant_of_name {s : State} {v : BitVec 5} {name : String} (h : s.params.nameTable[v.toNat]? = some name) :
    showVariant v s = .next { s with ports := { s.ports with nameId := v }, lookupName := name, answer := .silent } := by
  simp [showVariant, nameOf, h, replying]

/-- R72: in an instance that R162 admits the lookup of every code completes. -/
theorem exec_lookup_eq_next {s : State} (h : instantiable s.params = true) (c : Byte) :
    ∃ name, s.params.nameTable[(variant c).toNat]? = some name ∧
      exec (.lookup c) s =
        .next { s with ports := { s.ports with nameId := variant c }, lookupName := name, answer := .silent } := by
  obtain ⟨name, hname, -⟩ := nameOf_ok h (variant_lt c)
  exact ⟨name, hname, showVariant_of_name hname⟩

/-- R73: the name of variant 18 in every instance that R162 admits. -/
theorem nameTable_reserved {prm : Params} (h : instantiable prm = true) : prm.nameTable[18]? = some "RFU" := by
  obtain ⟨-, -, -, hreserved, -⟩ := (instantiable_iff prm).mp h
  exact hreserved

theorem variant_toNat_of_le {c : Byte} (h : c.toNat ≤ 18) : (variant c).toNat = c.toNat := by
  rw [variant_toNat, min_eq_left h]

theorem variant_toNat_of_ge {c : Byte} (h : 18 ≤ c.toNat) : (variant c).toNat = 18 := by
  rw [variant_toNat, min_eq_right h]

/-! ### Which row of the status table a code selects -/

/-- R52: the status table decodes every byte, whatever `LEN_W` is. -/
@[simp] theorem decode_statusRow (lenW : Nat) (c : Byte) : decode lenW ⟨.statusRow, [c]⟩ = .ok (statusRowOf c) := rfl

/-- R54: the code that a row of the table enumerates selects that row. -/
theorem statusRowOf_of_mem {row : Instr} {code : Nat} (h : (row, code) ∈ statusRows) :
    statusRowOf (BitVec.ofNat 8 code) = row := by
  have hrows : ∀ r ∈ statusRows, statusRowOf (BitVec.ofNat 8 r.2) = r.1 := by decide
  exact hrows _ h

/-- R54: a code beyond the enumerated ones matches no row of its own, so that the default arm takes it. -/
theorem statusRowOf_of_ge {c : Byte} (h : 0x13 ≤ c.toNat) : statusRowOf c = .statusDefault c := by
  unfold statusRowOf
  split
  case h_20 => rfl
  all_goals omega

/-- Settles O4: the lookup answers the smaller of the code and 18, whose name from 18 on is "RFU", and the row is that of the
table or, beyond it, the default arm. -/
theorem statusCodesSelectRows : Obligations.StatusCodesSelectRows := by
  refine ⟨fun s c hinst => ?_, fun lenW row code hrow => ?_, fun lenW c hc => ?_⟩
  · obtain ⟨name, hname, hexec⟩ := exec_lookup_eq_next hinst c
    have hreserved (hc : 18 ≤ c.toNat) : (variant c).toNat = 18 ∧ name = "RFU" := by
      have hvariant := variant_toNat_of_ge hc
      rw [hvariant, nameTable_reserved hinst] at hname
      exact ⟨hvariant, (Option.some.inj hname).symm⟩
    exact ⟨_, hexec, fun hc => variant_toNat_of_le (by omega), fun hc => hreserved (by omega),
      fun hc => hreserved (by omega)⟩
  · rw [decode_statusRow, statusRowOf_of_mem hrow]
  · rw [decode_statusRow, statusRowOf_of_ge hc]

end Sys2Proof.Machine
end

section
/-! PROOF. The answer of the stand-alone lookup (spec/40_status_lookup.md rule R71), its variant written as the smaller of the
code and 18. -/

namespace Sys2Proof.Machine

/-- Settles O1: the lookup of every code completes with the variant and its name, and the variant is min(c, 18). -/
theorem lookupAnswersVariantAndName : Obligations.LookupAnswersVariantAndName := by
  intro s c hinst
  obtain ⟨name, hname, hexec⟩ := exec_lookup_eq_next hinst c
  rw [variant_toNat, ← variantNat] at hname
  rw [variant_eq_ofNat] at hexec
  exact ⟨name, hname, hexec⟩

end Sys2Proof.Machine
end

section
/-! PROOF. The two arrangements of a key index (spec/42_key_index_unpack.md rules R90 to R92), and the document's longer
formula for the second one (spec/30_encoding.md rule R53). -/

namespace Sys2Proof.Machine

/-! ### The nibbles of a byte and the indices made of them, as numbers -/

/-- R6(c): the low nibble is what the mask 0x0F keeps. -/
@[simp] theorem lowNibble_toNat (b : Byte) : (lowNibble b).toNat = b.toNat &&& 0x0F :=
  (Nat.and_two_pow_sub_one_eq_mod b.toNat 4).symm

/-- R6(c): a byte without its low nibble is its high nibble. -/
@[simp] theorem highNibble_toNat (b : Byte) : (highNibble b).toNat = b.toNat >>> 4 := by
  have hbyte := b.isLt
  rw [highNibble, BitVec.extractLsb'_toNat, Nat.shiftRight_eq_div_pow]
  omega

@[simp] theorem kidxA_toNat (lo hi : Byte) :
    (kidxA lo hi).toNat = ((hi.toNat &&& 0x0F) <<< 8) ||| lo.toNat := by
  rw [kidxA, BitVec.toNat_append, lowNibble_toNat]

@[simp] theorem kidxB_toNat (lo hi : Byte) : (kidxB lo hi).toNat = (hi.toNat <<< 4) ||| (lo.toNat >>> 4) := by
  rw [kidxB, BitVec.toNat_append, highNibble_toNat]

/-- R92: a key index is at most 4095. -/
theorem keyIndex_le (k : BitVec 12) : k.toNat ≤ 4095 := Nat.le_of_lt_succ k.isLt

/-! ### The document's longer formula -/

/-- R53: the mask 0xF0 only clears bits that the shift drops. -/
theorem byte_and_highMask_shiftRight (b : Byte) : (b.toNat &&& 0xF0) >>> 4 = b.toNat >>> 4 :=
  calc (b.toNat &&& 0xF0) >>> 4
    _ = b.toNat >>> 4 &&& 2 ^ 4 - 1 := Nat.shiftRight_and_distrib
    _ = b.toNat >>> 4 % 2 ^ 4 := Nat.and_two_pow_sub_one_eq_mod _ _
    _ = b.toNat >>> 4 := Nat.mod_eq_of_lt (highNibble_toNat b ▸ (highNibble b).isLt)

/-- The bits of a number from `k` up, put back in their place above the bits below `k`. -/
theorem shiftRight_shiftLeft_or_mod (x k : Nat) : (x >>> k) <<< k ||| x % 2 ^ k = x := by
  rw [← Nat.shiftLeft_add_eq_or_of_lt (Nat.mod_lt x (Nat.two_pow_pos k)), Nat.shiftLeft_eq,
    Nat.shiftRight_eq_div_pow, Nat.div_add_mod']

/-- R53: with `hi << 4` cut to eight bits, the longer formula's first term restores the bits that were cut. -/
theorem highTerm_or_truncated (hi : Byte) :
    (((hi.toNat &&& 0xF0) >>> 4) <<< 8) ||| (hi.toNat <<< 4) % 256 = hi.toNat <<< 4 := by
  have hshift : hi.toNat >>> 4 = (hi.toNat <<< 4) >>> 8 := by
    rw [Nat.shiftRight_add _ 4 4, Nat.shiftLeft_shiftRight]
  rw [byte_and_highMask_shiftRight, hshift]
  exact shiftRight_shiftLeft_or_mod (hi.toNat <<< 4) 8

/-- R53: without the cut, the longer formula's first term repeats bits that are there already. -/
theorem highTerm_or_untruncated (hi : Byte) :
    (((hi.toNat &&& 0xF0) >>> 4) <<< 8) ||| hi.toNat <<< 4 = hi.toNat <<< 4 := by
  rw [← highTerm_or_truncated, ← Nat.or_assoc, Nat.or_self]

/-! ### The two operations -/

/-- Settles O7: the answer of `KIDX.A` is the index that `kidxA` assembles. -/
theorem kidxAAssemblesLowNibbleAboveByte : Obligations.KidxAAssemblesLowNibbleAboveByte :=
  fun _ lo hi => ⟨kidxA lo hi, kidxA_toNat lo hi, keyIndex_le _, rfl⟩

/-- Settles O8: the answer of `KIDX.B` is the index that `kidxB` assembles, and both longer formulas lose their first term
to `hi << 4`. -/
theorem kidxBAssemblesByteAboveHighNibble : Obligations.KidxBAssemblesByteAboveHighNibble := by
  intro s lo hi
  refine ⟨kidxB lo hi, kidxB_toNat lo hi, ?_, ?_, keyIndex_le _, rfl⟩
  · rw [kidxB_toNat, byte_and_highMask_shiftRight lo, ← Nat.or_assoc, highTerm_or_untruncated]
  · rw [kidxB_toNat, byte_and_highMask_shiftRight lo, ← Nat.or_assoc, highTerm_or_truncated]

end Sys2Proof.Machine
end

section
/-! PROOF. A decode as a function of the length, the bytes below it, the security fields and the parameters
(spec/43_appkey_status.md rule R105, spec/45_model_publication_status.md rule R128). -/

namespace Sys2Proof.Machine

/-! ### What a decode looks at -/

/-- R29: every read of a buffer is the same on another with the same bytes below the length. -/
theorem memRead_congr {m m' : Memory} {len : Nat} (hbytes : SameBytes len m m') : memRead m len = memRead m' len := by
  funext i
  unfold memRead
  split
  · rw [hbytes i ‹_›]
  · rfl

/-- R112: the identifier depends on the buffer only through the bytes below the length. -/
theorem midsel_congr {m m' : Memory} {len : Nat} (hbytes : SameBytes len m m') : midsel m len = midsel m' len := by
  unfold midsel
  rw [memRead_congr hbytes]

/-- R80: of the input ports the base takes the two security fields only. -/
theorem makeBase_congr (prm : Params) {inp inp' : Inputs} {m m' : Memory} {len : Nat} (hakf : inp.akf = inp'.akf)
    (haid : inp.aid = inp'.aid) (hbytes : SameBytes len m m') :
    makeBase prm inp m len = makeBase prm inp' m' len := by
  unfold makeBase
  rw [memRead_congr hbytes, buffer_congr hbytes, hakf, haid]

/-- R105, R128: a decode is a function of the parameters, the kind, the length, the bytes below it and the two security
fields. -/
theorem decodeAs_congr (prm : Params) {inp inp' : Inputs} {m m' : Memory} {len : Nat} (kind : Option Kind)
    (hakf : inp.akf = inp'.akf) (haid : inp.aid = inp'.aid) (hbytes : SameBytes len m m') :
    decodeAs prm inp m len kind = decodeAs prm inp' m' len kind := by
  have hread := memRead_congr hbytes
  have hbase := makeBase_congr prm hakf haid hbytes
  match kind with
  | none => rfl
  | some .appKeyStatus =>
    change decAppkey prm inp m len = decAppkey prm inp' m' len
    unfold decAppkey
    rw [hbase, hread]
  | some .modelPublicationStatus =>
    change decModelpub prm inp m len = decModelpub prm inp' m' len
    unfold decModelpub
    rw [hbase, hread, midsel_congr hbytes]

/-! ### What a decode leaves of the state before it -/

/-- R74: `name_id` passes every decode by, and no other port depends on it. -/
theorem drivePorts_eq_with_nameId (v w : BitVec 5) (r : Result) :
    drivePorts v r = { drivePorts w r with nameId := v } := by
  match r with
  | .err _ | .ok (.appKeyStatus _) | .ok (.modelPublicationStatus _) => rfl

/-- R105: every operation on a PDU, run again on the state that it left, leaves that state. -/
theorem exec_pdu_again {i : Instr} {s t : State} {len : Nat} (hlen : pduLen i = some len) (h : exec i s = .next t) :
    exec i t = .next t := by
  obtain ⟨r, hdecode, rfl⟩ := exec_pdu_next hlen h
  rw [exec_of_pduLen _ hlen]
  simp [commit, hdecode, deliver_eq, replying]

/-- Settles O38: both operations commit one and the same decode, whose result alone decides the answer and every port but
`name_id`. -/
theorem decodingTwiceGivesTheSameResult : Obligations.DecodingTwiceGivesTheSameResult := by
  intro i s s' t t' len hi hparams hakf haid hbytes h h'
  have hlen : pduLen i = some len := by
    obtain rfl | rfl := hi <;> rfl
  obtain ⟨r, hdecode, ht⟩ := exec_pdu_next hlen h
  obtain ⟨r', hdecode', ht'⟩ := exec_pdu_next hlen h'
  obtain rfl : r = r' := by
    rw [hparams, ← decodeAs_congr s.params _ hakf.symm haid.symm hbytes, hdecode] at hdecode'
    exact Except.ok.inj hdecode'
  refine ⟨?_, ?_, ?_, exec_pdu_again hlen h⟩
  · simp [ht, ht']
  · simp [ht, ht', ← drivePorts_eq_with_nameId]
  · simp [ht, ht']

end Sys2Proof.Machine
end

section
/-! PROOF. The two assemblies of a model identifier (spec/44_model_id_extract.md rules R110 and R111). -/

namespace Sys2Proof.Machine

/-! ### The identifiers as numbers -/

@[simp] theorem mid16_toNat (b0 b1 : Byte) : (mid16 b0 b1).toNat = (b1.toNat <<< 8) ||| b0.toNat :=
  BitVec.toNat_append b1 b0

/-- R111: the identifier as its two halves. -/
theorem mid32_toNat_halves (b0 b1 b2 b3 : Byte) :
    (mid32 b0 b1 b2 b3).toNat = ((mid16 b0 b1).toNat <<< 16) ||| (mid16 b2 b3).toNat :=
  BitVec.toNat_append (mid16 b0 b1) (mid16 b2 b3)

/-- R111: the upper half's shift by 16 distributes over its two bytes. -/
@[simp] theorem mid32_toNat (b0 b1 b2 b3 : Byte) :
    (mid32 b0 b1 b2 b3).toNat =
      (b1.toNat <<< 24) ||| (b0.toNat <<< 16) ||| (b3.toNat <<< 8) ||| b2.toNat := by
  rw [mid32_toNat_halves, mid16_toNat, mid16_toNat, Nat.shiftLeft_or_distrib, ← Nat.shiftLeft_add, ← Nat.or_assoc]

/-! ### The two operations -/

/-- Settles O10: the answer of `MID16` is the identifier that `mid16` assembles. -/
theorem midSixteenIsLittleEndian : Obligations.MidSixteenIsLittleEndian :=
  fun _ b0 b1 => ⟨mid16 b0 b1, mid16_toNat b0 b1, rfl⟩

/-- Settles O11: the answer of `MID32` is the identifier that `mid32` assembles, as four bytes and as two halves. -/
theorem midThirtyTwoPutsFirstPairAbove : Obligations.MidThirtyTwoPutsFirstPairAbove :=
  fun _ b0 b1 b2 b3 =>
    ⟨mid32 b0 b1 b2 b3, mid32_toNat b0 b1 b2 b3, mid32_toNat_halves b0 b1 b2 b3, rfl⟩

end Sys2Proof.Machine
end

section
/-! PROOF. The Model Publication Status decoder (spec/45_model_publication_status.md): its eleven fields for the two accepted
lengths, and `InvalidLength` for every other one. -/

namespace Sys2Proof.Machine

/-! ### The fields as numbers -/

/-- R6(c): a byte without its low five bits is its three high bits. -/
@[simp] theorem topThree_toNat (b : Byte) : (topThree b).toNat = b.toNat >>> 5 := by
  have hbyte := b.isLt
  rw [topThree, BitVec.extractLsb'_toNat, Nat.shiftRight_eq_div_pow]
  omega

/-- R6(c): the low five bits are what the mask 0x1F keeps. -/
@[simp] theorem lowFive_toNat (b : Byte) : (lowFive b).toNat = b.toNat &&& 0x1F :=
  (Nat.and_two_pow_sub_one_eq_mod b.toNat 5).symm

@[simp] theorem word16_toNat (b0 b1 : Byte) : (word16 b0 b1).toNat = (b1.toNat <<< 8) ||| b0.toNat :=
  mid16_toNat b0 b1

/-- R53: the zero extension of a 16-bit identifier keeps its value. -/
@[simp] theorem zext32_toNat (v : BitVec 16) : (zext32 v).toNat = v.toNat := by
  rw [zext32, BitVec.toNat_append, BitVec.toNat_zero, Nat.zero_shiftLeft, Nat.zero_or]

/-! ### The message that a buffer holds -/

/-- R120: the message of a buffer with a given base and model identifier; `P[10]` goes nowhere. -/
def pubMessage (m : Memory) (base : Base) (modelId : ModelId) : ModelPublicationStatus where
  base                           := base
  elementAddress                 := word16 (readMem m 1) (readMem m 2)
  publishAddressB0               := readMem m 3
  publishAddressB1               := readMem m 4
  appKeyIndex                    := kidxA (readMem m 5) (readMem m 6)
  credentialFlag                 := highNibble (readMem m 6)
  publishTtl                     := readMem m 7
  publishPeriod                  := readMem m 8
  publishRetransmitCount         := topThree (readMem m 9)
  publishRetransmitIntervalSteps := lowFive (readMem m 11)
  modelId                        := modelId

/-- R120: the fields of the message are those of the document's arithmetic. -/
theorem pubMessage_prefixOf (s : State) (base : Base) (modelId : ModelId) :
    PrefixOf s (pubMessage s.mem base modelId) where
  elementAddress   := word16_toNat _ _
  publishAddressB0 := rfl
  publishAddressB1 := rfl
  appKeyIndex      := kidxA_toNat _ _
  credentialFlag   := (highNibble_toNat _).trans (byte_and_highMask_shiftRight _).symm
  publishTtl       := rfl
  publishPeriod    := rfl
  retransmitCount  := topThree_toNat _
  intervalSteps    := lowFive_toNat _

/-! ### The decoder by the length of the buffer -/

/-- R80: in an instance that R162 admits, a buffer that is not empty has the base of R24. -/
theorem makeBase_eq_baseFor {s : State} {len : Nat} (hinst : instantiable s.params = true) (hlen : 0 < len) :
    ∃ name, s.params.nameTable[variantNat (readMem s.mem 0)]? = some name ∧
      makeBase s.params s.inputs s.mem len = .ok (baseFor s len name) := by
  obtain ⟨_, -, hok⟩ := makeBase_ok hinst s.inputs s.mem hlen
  obtain ⟨name, hname, hbase⟩ := makeBase_eq_ok hok
  exact ⟨name, hname, hbase ▸ hok⟩

/-- R120: for an accepted length every read stays below the length, and the decoder answers the message of the buffer. -/
theorem decModelpub_of_accepted {prm : Params} {inp : Inputs} {m : Memory} {len : Nat} {base : Base} {modelId : ModelId}
    (hlen : len = 14 ∨ len = 16) (hbase : makeBase prm inp m len = .ok base) (hid : midsel m len = .ok modelId) :
    decModelpub prm inp m len = .ok (.ok (.modelPublicationStatus (pubMessage m base modelId))) := by
  have hread {i : Nat} (hi : i < 14) : memRead m len i = .ok (readMem m i) := memRead_of_lt (by omega)
  have haccept : ¬(len ≠ mpLenSig ∧ len ≠ mpLenVnd) := by
    unfold mpLenSig mpLenVnd
    omega
  simp [decModelpub, haccept, hbase, hid, hread, pubMessage]

/-- R123: every other length is turned away before any byte is read. -/
theorem decModelpub_of_not_accepted (prm : Params) (inp : Inputs) (m : Memory) {len : Nat} (hsig : len ≠ 14)
    (hvnd : len ≠ 16) : decModelpub prm inp m len = .ok (.err .invalidLength) :=
  if_pos ⟨hsig, hvnd⟩

/-- R112: `MIDSEL` answers for both accepted lengths. -/
theorem midsel_ok (m : Memory) {len : Nat} (hlen : len = 14 ∨ len = 16) :
    ∃ modelId, midsel m len = .ok modelId := by
  obtain rfl | rfl := hlen
  · exact ⟨_, midsel_sig m⟩
  · exact ⟨_, midsel_vnd m⟩

/-! ### The operations that commit the decode -/

/-- R120: an operation that commits the decode of an accepted length ends with the message of the buffer, on the record and on
the ports. -/
theorem exec_modelPub_of_accepted {s : State} {i : Instr} {len : Nat} {modelId : ModelId}
    (hinst : instantiable s.params = true) (hlen : len = 14 ∨ len = 16) (hid : midsel s.mem len = .ok modelId)
    (hexec : exec i s = commit s noReply (decModelpub s.params s.inputs s.mem len)) :
    ∃ (name : String) (p : ModelPublicationStatus),
      s.params.nameTable[variantNat (readMem s.mem 0)]? = some name ∧
      p.base = baseFor s len name ∧ PrefixOf s p ∧ p.modelId = modelId ∧
      exec i s = .next { s with
        returned := .ok (.modelPublicationStatus p), ports := pubPorts s name p (widthBit modelId.width),
        answer := .silent } := by
  obtain ⟨name, hname, hbase⟩ := makeBase_eq_baseFor hinst (len := len) (by omega)
  refine ⟨name, pubMessage s.mem (baseFor s len name) modelId, hname, rfl, pubMessage_prefixOf .., rfl, ?_⟩
  rw [hexec, decModelpub_of_accepted hlen hbase hid]
  rfl

/-- R123: `DEC.MODELPUB` of any other length delivers `InvalidLength` alone. -/
theorem exec_decModelpub_of_not_accepted (s : State) {len : Nat} (hsig : len ≠ 14) (hvnd : len ≠ 16) :
    exec (.decModelpub len) s = .next (errorState s .invalidLength 2) := by
  change commit s noReply (decModelpub s.params s.inputs s.mem len) = _
  rw [decModelpub_of_not_accepted _ _ _ hsig hvnd]
  rfl

/-! ### The statements -/

/-- Settles O19: both rows commit the decode of 14 bytes, for which `MIDSEL` answers the 16-bit identifier. -/
theorem modelPubSigDecoded : Obligations.ModelPubSigDecoded := by
  intro s i hinst hi
  have hcommit : exec i s = commit s noReply (decModelpub s.params s.inputs s.mem 14) := by
    obtain rfl | rfl := hi <;> rfl
  obtain ⟨name, p, hname, hbase, hfields, hid, hexec⟩ :=
    exec_modelPub_of_accepted hinst (.inl rfl) (midsel_sig s.mem) hcommit
  refine ⟨name, p, hname, hbase, hfields, ?_, congrArg ModelId.width hid, hexec⟩
  rw [hid, zext32_toNat, mid16_toNat, byteNat, byteNat]

/-- Settles O20: both rows commit the decode of 16 bytes, for which `MIDSEL` answers the 32-bit identifier. -/
theorem modelPubVndDecoded : Obligations.ModelPubVndDecoded := by
  intro s i hinst hi
  have hcommit : exec i s = commit s noReply (decModelpub s.params s.inputs s.mem 16) := by
    obtain rfl | rfl := hi <;> rfl
  obtain ⟨name, p, hname, hbase, hfields, hid, hexec⟩ :=
    exec_modelPub_of_accepted hinst (.inr rfl) (midsel_vnd s.mem) hcommit
  refine ⟨name, p, hname, hbase, hfields, ?_, congrArg ModelId.width hid, hexec⟩
  rw [hid, mid32_toNat, byteNat, byteNat, byteNat, byteNat]

/-- Settles O21: the accepted lengths end with the message of the buffer, every other one with the error. -/
theorem modelPubDecodedOrInvalidLength : Obligations.ModelPubDecodedOrInvalidLength := by
  refine fun s len => ⟨fun hinst hlen => ?_, exec_decModelpub_of_not_accepted s⟩
  obtain ⟨modelId, hmidsel⟩ := midsel_ok s.mem hlen
  obtain ⟨name, p, hname, hbase, hfields, rfl, hexec⟩ :=
    exec_modelPub_of_accepted (i := .decModelpub len) hinst hlen hmidsel rfl
  exact ⟨name, p, hname, hbase, hfields, hmidsel, hexec⟩

/-- Settles O22: the three clauses are the lengths of O19, O20 and of the error. -/
theorem modelIdWidthFollowsLength : Obligations.ModelIdWidthFollowsLength := by
  intro s len hinst
  by_cases hsig : len = 14
  · subst hsig
    obtain ⟨name, p, -, -, -, -, hwidth, hexec⟩ := modelPubSigDecoded s _ hinst (.inl rfl)
    exact ⟨_, hexec, fun _ => ⟨p, rfl, by rw [hwidth, widthNumber]⟩, by simp, by simp⟩
  by_cases hvnd : len = 16
  · subst hvnd
    obtain ⟨name, p, -, -, -, -, hwidth, hexec⟩ := modelPubVndDecoded s _ hinst (.inl rfl)
    exact ⟨_, hexec, by simp, fun _ => ⟨p, rfl, by rw [hwidth, widthNumber]⟩, by simp⟩
  · exact ⟨_, exec_decModelpub_of_not_accepted s hsig hvnd, fun h => absurd h hsig, fun h => absurd h hvnd,
      fun _ => rfl⟩

end Sys2Proof.Machine
end

section
/-! PROOF. The errors of a decode (spec/60_exceptions.md): which lengths end in `TruncatedPdu` (rule R140) and what is delivered
with an error (rule R149). -/

namespace Sys2Proof.Machine

/-! ### The errors a decoder can answer -/

/-- R140, R141: the errors of `DEC.APPKEY`, each with its lengths. -/
theorem decAppkey_eq_err {prm : Params} {inp : Inputs} {m : Memory} {len : Nat} {k : ErrorKind}
    (h : decAppkey prm inp m len = .ok (.err k)) :
    len < 5 ∧ k = .truncatedPdu ∨ 5 < len ∧ prm.appkeyOverlength = .reject ∧ k = .invalidLength := by
  unfold decAppkey at h
  split at h
  · cases h
    exact .inl ⟨‹_›, rfl⟩
  · split at h
    · cases h
      obtain ⟨hlong, hreject⟩ := ‹_ ∧ _›
      exact .inr ⟨hlong, hreject, rfl⟩
    · simp [except_bind_eq_ok] at h

/-- R100: a buffer shorter than 5 bytes is turned away before any byte is read. -/
theorem decAppkey_of_lt (prm : Params) (inp : Inputs) (m : Memory) {len : Nat} (hlen : len < 5) :
    decAppkey prm inp m len = .ok (.err .truncatedPdu) :=
  if_pos hlen

/-- R141: the one error of `DEC.MODELPUB`, with its lengths. -/
theorem decModelpub_eq_err {prm : Params} {inp : Inputs} {m : Memory} {len : Nat} {k : ErrorKind}
    (h : decModelpub prm inp m len = .ok (.err k)) : (len ≠ 14 ∧ len ≠ 16) ∧ k = .invalidLength := by
  unfold decModelpub at h
  split at h
  · cases h
    exact ⟨‹_›, rfl⟩
  · simp [except_bind_eq_ok] at h

/-- R140: of the three decodes only that of an AppKey Status buffer answers `TruncatedPdu`, below 5 bytes. -/
theorem decodeAs_eq_truncatedPdu_iff {prm : Params} {inp : Inputs} {m : Memory} {len : Nat} {kind : Option Kind} :
    decodeAs prm inp m len kind = .ok (.err .truncatedPdu) ↔ kind = some .appKeyStatus ∧ len < 5 := by
  constructor
  · intro h
    match kind with
    | none => cases h
    | some .appKeyStatus =>
      obtain ⟨hlt, -⟩ | ⟨-, -, hk⟩ := decAppkey_eq_err h
      · exact ⟨rfl, hlt⟩
      · cases hk
    | some .modelPublicationStatus =>
      obtain ⟨-, hk⟩ := decModelpub_eq_err h
      cases hk
  · rintro ⟨rfl, hlt⟩
    exact decAppkey_of_lt prm inp m hlt

/-! ### The operations that decode an AppKey Status buffer -/

/-- R83: the front end takes the AppKey Status decoder for that kind's constant alone. -/
theorem opcodeKind_eq_appKeyStatus_iff {prm : Params} {opcode : BitVec 32} :
    opcodeKind prm opcode = some .appKeyStatus ↔ opcode = prm.opcAppkeyStatus := by
  unfold opcodeKind
  split
  · exact iff_of_true rfl ‹_›
  · split <;> exact iff_of_false (by simp) ‹_›

/-- The document's list of the operations on an AppKey Status buffer is that of the operations of this kind. -/
theorem decodesAppKey_iff {prm : Params} {i : Instr} {len : Nat} (hlen : pduLen i = some len) :
    decodesAppKey prm len i ↔ pduKind prm i = some .appKeyStatus := by
  cases i with
  | decodeOp opcode len' =>
    cases hlen
    simp [decodesAppKey, pduKind, opcodeKind_eq_appKeyStatus_iff]
  | midsel | decAppkey | decModelpub | decModelpubSig | decModelpubVnd | base =>
    cases hlen
    simp [decodesAppKey, pduKind]
  | _ => cases hlen

/-! ### The delivery of an error -/

/-- What an operation on a PDU returns is the decode of its buffer, and it delivers nothing else. -/
theorem exec_pdu_returned {i : Instr} {s t : State} {len : Nat} (hlen : pduLen i = some len) (h : exec i s = .next t) :
    decodeAs s.params s.inputs s.mem len (pduKind s.params i) = .ok t.returned ∧
      t = replying (deliver s t.returned) (pduReply i t.returned) := by
  obtain ⟨r, hdecode, rfl⟩ := exec_pdu_next hlen h
  simpa using hdecode

/-- R19: with an error every field port carries zero. -/
theorem fieldsZero_drivePorts_err (v : BitVec 5) (k : ErrorKind) : fieldsZero (drivePorts v (.err k)) := by
  simp [fieldsZero, drivePorts, idlePorts, Ports.reset]

@[simp] theorem drivePorts_err_result (v : BitVec 5) (k : ErrorKind) : (drivePorts v (.err k)).result = errorCode k := rfl

/-- R145: with an error no unit answers with a value. -/
theorem pduReply_err (i : Instr) (k : ErrorKind) :
    pduReply i (.err k) = .silent ∨ pduReply i (.err k) = .midsel none ∨ pduReply i (.err k) = .base none := by
  cases i with
  | midsel => exact .inr (.inl rfl)
  | base => exact .inr (.inr rfl)
  | _ => exact .inl rfl

/-- Settles O32: the state after an error is the one that delivers it, with a reply that holds no value. -/
theorem errorDeliveredAlone : Obligations.ErrorDeliveredAlone := by
  intro i s t len k hlen hexec herr
  obtain ⟨-, ht⟩ := exec_pdu_returned hlen hexec
  rw [herr] at ht
  subst ht
  simp [fieldsZero_drivePorts_err, pduReply_err]

/-- Settles O17: what is returned is the decode of the buffer as the kind of the operation, and an error's ports are those of
O32. -/
theorem truncatedPduExactlyForShortAppKey : Obligations.TruncatedPduExactlyForShortAppKey := by
  intro i s t len hlen hexec
  obtain ⟨hdecode, -⟩ := exec_pdu_returned hlen hexec
  refine ⟨?_, fun herr => ?_⟩
  · rw [decodesAppKey_iff hlen, ← decodeAs_eq_truncatedPdu_iff, hdecode, Except.ok.injEq]
  · obtain ⟨hresult, hzero, -⟩ := errorDeliveredAlone i s t len _ hlen hexec herr
    exact ⟨hresult, hzero⟩

end Sys2Proof.Machine
end

section
/-! PROOF. The words of the operations (spec/30_encoding.md): reading back the number in little-endian bytes, the `len` port and the
selector word, then decoder and encoder as inverses of each other on the well-formed operations. -/

namespace Sys2Proof.Machine

/-! ### Numbers as bytes, least significant first -/

theorem leValue_leBytes (count v : Nat) : leValue (leBytes count v) = v % 256 ^ count := by
  induction count generalizing v with
  | zero => simp [leBytes, leValue, Nat.mod_one]
  | succ n ih => rw [leBytes, leValue, ih, Nat.pow_succ', Nat.mod_mul, BitVec.toNat_ofNat]

theorem leBytes_leValue (bs : List Byte) : leBytes bs.length (leValue bs) = bs := by
  induction bs with
  | nil => rfl
  | cons b bs ih =>
    have hbyte := b.isLt
    have hlow : BitVec.ofNat 8 (b.toNat + 256 * leValue bs) = b := by
      apply BitVec.eq_of_toNat_eq
      rw [BitVec.toNat_ofNat]
      omega
    have hhigh : (b.toNat + 256 * leValue bs) / 256 = leValue bs := by omega
    rw [List.length_cons, leBytes, leValue, hlow, hhigh, ih]

/-- R63(a): the bytes of a selector word hold every number of 1 + `LEN_W` bits. -/
theorem two_pow_succ_le_selBytes (lenW : Nat) : 2 ^ (lenW + 1) ≤ 256 ^ selBytes lenW :=
  calc 2 ^ (lenW + 1) ≤ 2 ^ (8 * selBytes lenW) := Nat.pow_le_pow_right (by decide) (by rw [selBytes]; omega)
    _ = 256 ^ selBytes lenW := Nat.pow_mul 2 8 _

theorem leValue_selBytes {lenW v : Nat} (h : v < 2 ^ (lenW + 1)) : leValue (leBytes (selBytes lenW) v) = v := by
  rw [leValue_leBytes, Nat.mod_eq_of_lt (h.trans_le (two_pow_succ_le_selBytes lenW))]

theorem leValue_lenBytes (lenW len : Nat) : leValue (lenBytes lenW len) = len % 2 ^ lenW :=
  leValue_selBytes ((Nat.mod_lt len (Nat.two_pow_pos lenW)).trans (Nat.pow_lt_pow_succ (by decide)))

/-! ### The selector word -/

@[simp] theorem kindOf_kindBit (kind : Kind) : kindOf (kindBit kind) = kind := by cases kind <;> rfl

theorem kindBit_kindOf {n : Nat} (h : n < 2) : kindBit (kindOf n) = n := by
  obtain rfl | rfl : n = 0 ∨ n = 1 := by omega
  · rfl
  · rfl

theorem selWord_lt (lenW : Nat) (kind : Kind) (len : Nat) : selWord lenW kind len < 2 ^ (lenW + 1) := by
  have hlen := Nat.mod_lt len (Nat.two_pow_pos lenW)
  rw [selWord, Nat.pow_succ]
  cases kind with
  | appKeyStatus => rw [kindBit]; omega
  | modelPublicationStatus => rw [kindBit]; omega

theorem kindOf_selWord (lenW : Nat) (kind : Kind) (len : Nat) : kindOf (selWord lenW kind len / 2 ^ lenW) = kind := by
  rw [selWord, Nat.add_comm, Nat.add_mul_div_right _ _ (Nat.two_pow_pos lenW),
    Nat.div_eq_of_lt (Nat.mod_lt len (Nat.two_pow_pos lenW)), Nat.zero_add, kindOf_kindBit]

theorem selWord_mod (lenW : Nat) (kind : Kind) (len : Nat) : selWord lenW kind len % 2 ^ lenW = len % 2 ^ lenW := by
  rw [selWord, Nat.mul_add_mod_self_right, Nat.mod_mod]

/-- R63(a): a number of 1 + `LEN_W` bits is the selector word of the kind and the length read from it. -/
theorem selWord_kindOf {lenW v : Nat} (h : v < 2 ^ (lenW + 1)) :
    selWord lenW (kindOf (v / 2 ^ lenW)) (v % 2 ^ lenW) = v := by
  have hbit : v / 2 ^ lenW < 2 := Nat.div_lt_of_lt_mul (by rwa [← Nat.pow_succ])
  rw [selWord, kindBit_kindOf hbit, Nat.mod_mod, Nat.div_add_mod']

/-! ### Reading the ports -/

theorem readLen_lenBytes (lenW : Nat) (port : Port) (len : Nat) :
    readLen lenW port (lenBytes lenW len) = .ok (len % 2 ^ lenW) := by
  have hwidth : (lenBytes lenW len).length = selBytes lenW := Laws.leBytes_length _ _
  simp [readLen, hwidth, leValue_lenBytes, Nat.mod_lt]

theorem readSel_leBytes {lenW v : Nat} (port : Port) (h : v < 2 ^ (lenW + 1)) :
    readSel lenW port (leBytes (selBytes lenW) v) = .ok (kindOf (v / 2 ^ lenW), v % 2 ^ lenW) := by
  simp [readSel, Laws.leBytes_length, leValue_selBytes h, h]

theorem readSel_selWord (lenW : Nat) (port : Port) (kind : Kind) (len : Nat) :
    readSel lenW port (leBytes (selBytes lenW) (selWord lenW kind len)) = .ok (kind, len % 2 ^ lenW) := by
  rw [readSel_leBytes port (selWord_lt ..), kindOf_selWord, selWord_mod]

/-- All that reading the `len` port can answer. -/
theorem readLen_eq_ok {lenW len : Nat} {port : Port} {bytes : List Byte} (h : readLen lenW port bytes = .ok len) :
    len < 2 ^ lenW ∧ lenBytes lenW len = bytes := by
  unfold readLen at h
  split at h
  · cases h
  · split at h
    · cases h
    · cases h
      have hfits : leValue bytes < 2 ^ lenW := by omega
      have hwidth : selBytes lenW = bytes.length := by omega
      rw [lenBytes, Nat.mod_eq_of_lt hfits, hwidth, leBytes_leValue]
      exact ⟨hfits, rfl⟩

/-- All that reading the selector word can answer. -/
theorem readSel_eq_ok {lenW : Nat} {port : Port} {bytes : List Byte} {sel : Kind × Nat}
    (h : readSel lenW port bytes = .ok sel) :
    sel.2 < 2 ^ lenW ∧ leBytes (selBytes lenW) (selWord lenW sel.1 sel.2) = bytes := by
  unfold readSel at h
  split at h
  · cases h
  · split at h
    · cases h
    · cases h
      have hwidth : selBytes lenW = bytes.length := by omega
      rw [selWord_kindOf (by omega), hwidth, leBytes_leValue]
      exact ⟨Nat.mod_lt _ (Nat.two_pow_pos lenW), rfl⟩

/-- R60: the four bytes of an opcode, put together again. -/
theorem opcode_of_bytes (o : BitVec 32) :
    o.extractLsb' 24 8 ++ o.extractLsb' 16 8 ++ o.extractLsb' 8 8 ++ o.extractLsb' 0 8 = o := by
  rw [BitVec.extractLsb'_append_extractLsb'_eq_extractLsb' (by decide),
    BitVec.extractLsb'_append_extractLsb'_eq_extractLsb' (by decide)]
  exact BitVec.extractLsb'_append_extractLsb'

/-- Two concatenations of the same widths are equal only part by part. -/
theorem append_inj {n k : Nat} {x x' : BitVec n} {y y' : BitVec k} (h : x ++ y = x' ++ y') : x = x' ∧ y = y' := by
  constructor
  · simpa only [BitVec.extractLsb'_append_eq_left] using congrArg (BitVec.extractLsb' k n) h
  · simpa only [BitVec.extractLsb'_append_eq_right] using congrArg (BitVec.extractLsb' 0 k) h

theorem opcodeBytes_append (o3 o2 o1 o0 : Byte) : opcodeBytes (o3 ++ o2 ++ o1 ++ o0) = [o3, o2, o1, o0] := by
  obtain ⟨h321, h0⟩ := append_inj (opcode_of_bytes (o3 ++ o2 ++ o1 ++ o0))
  obtain ⟨h32, h1⟩ := append_inj h321
  obtain ⟨h3, h2⟩ := append_inj h32
  rw [opcodeBytes, h3, h2, h1, h0]

/-! ### The rows of the status table -/

/-- R54: every code selects the row that enumerates it, or from 0x13 on the default arm. -/
theorem statusRowOf_cases (c : Byte) :
    (statusRowOf c, c.toNat) ∈ statusRows ∨ 0x13 ≤ c.toNat ∧ statusRowOf c = .statusDefault c := by
  by_cases hc : 0x13 ≤ c.toNat
  · exact .inr ⟨hc, statusRowOf_of_ge hc⟩
  · left
    have hrows : ∀ n < 0x13, (statusRowOf (BitVec.ofNat 8 n), n) ∈ statusRows := by decide
    simpa using hrows c.toNat (by omega)

/-- R63(b): the words of a row are the code it enumerates. -/
theorem encode_of_mem_statusRows {row : Instr} {code : Nat} (lenW : Nat) (h : (row, code) ∈ statusRows) :
    row.wf lenW = true ∧ encode lenW row = ⟨.statusRow, [BitVec.ofNat 8 code]⟩ := by
  have hrows : ∀ r ∈ statusRows, r.1.wf lenW = true ∧ encode lenW r.1 = ⟨.statusRow, [BitVec.ofNat 8 r.2]⟩ := by
    simp [statusRows, Instr.wf, encode]
  exact hrows _ h

theorem encode_statusRowOf (lenW : Nat) (c : Byte) :
    (statusRowOf c).wf lenW = true ∧ encode lenW (statusRowOf c) = ⟨.statusRow, [c]⟩ := by
  obtain hmem | ⟨hc, hrow⟩ := statusRowOf_cases c
  · simpa using encode_of_mem_statusRows lenW hmem
  · rw [hrow]
    exact ⟨decide_eq_true hc, rfl⟩

/-! ### The rows of the selector word -/

/-- R50, R63(a): the words on the `kind` and `len` ports select a row, whatever they are. -/
theorem decode_pdu_leBytes {lenW sel : Nat} (h : sel < 2 ^ (lenW + 1)) :
    decode lenW ⟨.pdu, leBytes (selBytes lenW) sel⟩ = .ok (pduRowOf (kindOf (sel / 2 ^ lenW)) (sel % 2 ^ lenW)) :=
  congrArg (Except.map _) (readSel_leBytes .pdu h)

/-- The words of a kind and a length select the row of that kind and of what the port carries of that length. -/
theorem decode_pdu_selWord (lenW : Nat) (kind : Kind) (len : Nat) :
    decode lenW ⟨.pdu, leBytes (selBytes lenW) (selWord lenW kind len)⟩ = .ok (pduRowOf kind (len % 2 ^ lenW)) :=
  congrArg (Except.map _) (readSel_selWord lenW .pdu kind len)

theorem encode_pduRowOf (lenW : Nat) (kind : Kind) {len : Nat} (h : len < 2 ^ lenW) :
    (pduRowOf kind len).wf lenW = true ∧
      encode lenW (pduRowOf kind len) = ⟨.pdu, leBytes (selBytes lenW) (selWord lenW kind len)⟩ := by
  have hfits : lenFits lenW len = true := decide_eq_true h
  cases kind with
  | appKeyStatus => exact ⟨hfits, rfl⟩
  | modelPublicationStatus =>
    by_cases hsig : len = 14
    · subst hsig
      exact ⟨hfits, rfl⟩
    by_cases hvnd : len = 16
    · subst hvnd
      exact ⟨hfits, rfl⟩
    · rw [pduRowOf, if_neg hsig, if_neg hvnd]
      exact ⟨by simp [Instr.wf, hfits, hsig, hvnd], rfl⟩

/-- The words on the front end's ports: an opcode, and a length as the port carries it. -/
theorem decode_frontEnd (lenW : Nat) (opcode : BitVec 32) (len : Nat) :
    decode lenW (encode lenW (.decodeOp opcode len)) = .ok (.decodeOp opcode (len % 2 ^ lenW)) := by
  simp [encode, opcodeBytes, decode, readLen_lenBytes, opcode_of_bytes, Except.map]

/-! ### The decoder and the encoder -/

/-- Settles O52: each unit reads back the operands that its words carry, and a well-formed length is all on its port. -/
theorem decodeInvertsEncode : Obligations.DecodeInvertsEncode := by
  intro lenW i hwf
  have hfits {len : Nat} (h : lenFits lenW len = true) : len % 2 ^ lenW = len :=
    Nat.mod_eq_of_lt (of_decide_eq_true h)
  cases i with
  | statusDefault c => exact congrArg Except.ok (statusRowOf_of_ge (of_decide_eq_true hwf))
  | midsel len =>
    have hread := readLen_lenBytes lenW .midsel len
    rw [hfits hwf] at hread
    exact congrArg (Except.map Instr.midsel) hread
  | decAppkey len =>
    rw [encode, decode_pdu_selWord, hfits hwf, pduRowOf]
  | decModelpub len =>
    obtain ⟨⟨hlen, hsig⟩, hvnd⟩ : (lenFits lenW len = true ∧ len ≠ 14) ∧ len ≠ 16 := by simpa [Instr.wf] using hwf
    rw [encode, decode_pdu_selWord, hfits hlen, pduRowOf, if_neg hsig, if_neg hvnd]
  | decModelpubSig => rw [encode, decode_pdu_selWord, hfits hwf, pduRowOf, if_pos rfl]
  | decModelpubVnd => rw [encode, decode_pdu_selWord, hfits hwf, pduRowOf, if_neg (by decide), if_pos rfl]
  | base kind len =>
    have hread := readSel_selWord lenW .base kind len
    rw [hfits hwf] at hread
    exact congrArg (Except.map fun sel : Kind × Nat => Instr.base sel.1 sel.2) hread
  | decodeOp opcode len => rw [decode_frontEnd, hfits hwf]
  | _ => rfl

/-- What a computation mapped over answers comes from an answer of the computation. -/
theorem except_map_eq_ok {ε α β : Type} {x : Except ε α} {f : α → β} {b : β} (h : x.map f = .ok b) :
    ∃ a, x = .ok a ∧ f a = b := by
  cases x with
  | ok a => exact ⟨a, rfl, Except.ok.inj h⟩
  | error e => cases h

/-- All that the decoder can answer: a well-formed operation whose words are the ones it was given. -/
theorem decode_eq_ok {lenW : Nat} {w : Words} {i : Instr} (h : decode lenW w = .ok i) :
    i.wf lenW = true ∧ encode lenW i = w := by
  obtain ⟨port, bytes⟩ := w
  cases port with
  | codeIn =>
    match bytes with
    | [c] => cases h; exact ⟨rfl, rfl⟩
    | [] | _ :: _ :: _ => cases h
  | statusRow =>
    match bytes with
    | [c] => cases h; exact encode_statusRowOf lenW c
    | [] | _ :: _ :: _ => cases h
  | kidxA | kidxB | mid16 =>
    match bytes with
    | [b0, b1] => cases h; exact ⟨rfl, rfl⟩
    | [] | [_] | _ :: _ :: _ :: _ => cases h
  | mid32 =>
    match bytes with
    | [b0, b1, b2, b3] => cases h; exact ⟨rfl, rfl⟩
    | [] | [_] | [_, _] | [_, _, _] | _ :: _ :: _ :: _ :: _ :: _ => cases h
  | midsel =>
    obtain ⟨len, hread, rfl⟩ := except_map_eq_ok h
    obtain ⟨hlen, rfl⟩ := readLen_eq_ok hread
    exact ⟨decide_eq_true hlen, rfl⟩
  | pdu =>
    obtain ⟨sel, hread, rfl⟩ := except_map_eq_ok h
    obtain ⟨hlen, rfl⟩ := readSel_eq_ok hread
    exact encode_pduRowOf lenW sel.1 hlen
  | base =>
    obtain ⟨sel, hread, rfl⟩ := except_map_eq_ok h
    obtain ⟨hlen, rfl⟩ := readSel_eq_ok hread
    exact ⟨decide_eq_true hlen, rfl⟩
  | frontEnd =>
    match bytes with
    | o3 :: o2 :: o1 :: o0 :: rest =>
      obtain ⟨len, hread, rfl⟩ := except_map_eq_ok h
      obtain ⟨hlen, rfl⟩ := readLen_eq_ok hread
      refine ⟨decide_eq_true hlen, ?_⟩
      rw [encode, opcodeBytes_append]
      rfl
    | [] | [_] | [_, _] | [_, _, _] => cases h

/-- Settles O53: the encoder gives back the words of whatever they decode to. -/
theorem encodeInvertsDecode : Obligations.EncodeInvertsDecode := by
  intro lenW w i h
  obtain ⟨-, hencode⟩ := decode_eq_ok h
  exact hencode

/-- Settles O54: each unit answers operations that carry no more than its words. -/
theorem decodedOperationsAreWellFormed : Obligations.DecodedOperationsAreWellFormed := by
  intro lenW w i h
  obtain ⟨hwf, -⟩ := decode_eq_ok h
  exact hwf

/-! ### Words that the ports do not carry -/

/-- Settles O55: each unit looks at the number of its bytes first. -/
theorem wrongWidthsAreRefused : Obligations.WrongWidthsAreRefused := by
  rintro lenW ⟨port, bytes⟩ hwidth
  cases port with
  | codeIn | statusRow =>
    match bytes with
    | [_] => exact absurd rfl hwidth
    | [] | _ :: _ :: _ => rfl
  | kidxA | kidxB | mid16 =>
    match bytes with
    | [_, _] => exact absurd rfl hwidth
    | [] | [_] | _ :: _ :: _ :: _ => rfl
  | mid32 =>
    match bytes with
    | [_, _, _, _] => exact absurd rfl hwidth
    | [] | [_] | [_, _] | [_, _, _] | _ :: _ :: _ :: _ :: _ :: _ => rfl
  | midsel => exact congrArg (Except.map Instr.midsel) (if_pos hwidth)
  | pdu => exact congrArg (Except.map fun sel : Kind × Nat => pduRowOf sel.1 sel.2) (if_pos hwidth)
  | base => exact congrArg (Except.map fun sel : Kind × Nat => Instr.base sel.1 sel.2) (if_pos hwidth)
  | frontEnd =>
    match bytes with
    | o3 :: o2 :: o1 :: o0 :: rest =>
      have hrest : rest.length ≠ selBytes lenW := fun h => hwidth (by simp [portBytes, h]; omega)
      exact congrArg (Except.map fun len => Instr.decodeOp (o3 ++ o2 ++ o1 ++ o0) len) (if_pos hrest)
    | [] | [_] | [_, _] | [_, _, _] => rfl

/-- Settles O57: the words carry the length modulo 2^`LEN_W`, and 517 and 5 are the same modulo 512. -/
theorem truncatedLengthsAreMisread : Obligations.TruncatedLengthsAreMisread :=
  ⟨fun lenW len => decode_pdu_selWord lenW .appKeyStatus len, by decide⟩

end Sys2Proof.Machine
end

section
/-! PROOF. The selector word against the rows of the table (spec/30_encoding.md rule R63(a)), at every width of `len` and, with
the table's match and mask, at the default one. -/

namespace Sys2Proof.Machine

/-! ### The two halves of the selector words -/

/-- R63(a): with the kind bit clear the word is the length of an AppKey Status buffer. -/
theorem decode_pdu_low {lenW sel : Nat} (h : sel < 2 ^ lenW) :
    decode lenW ⟨.pdu, leBytes (selBytes lenW) sel⟩ = .ok (.decAppkey sel) := by
  rw [decode_pdu_leBytes (h.trans (Nat.pow_lt_pow_succ (by decide))), Nat.div_eq_of_lt h, Nat.mod_eq_of_lt h]
  rfl

/-- R63(a): with the kind bit set the word selects a row of the Model Publication Status decoder by the rest of it. -/
theorem decode_pdu_high {lenW sel : Nat} (hkind : 2 ^ lenW ≤ sel) (hsel : sel < 2 ^ (lenW + 1)) :
    decode lenW ⟨.pdu, leBytes (selBytes lenW) sel⟩ = .ok (pduRowOf .modelPublicationStatus (sel - 2 ^ lenW)) := by
  have hrest : sel - 2 ^ lenW < 2 ^ lenW := by
    rw [Nat.pow_succ] at hsel
    omega
  have hdiv : sel / 2 ^ lenW = 1 := Nat.div_eq_of_lt_le (by omega) (by omega)
  rw [decode_pdu_leBytes hsel, hdiv, Nat.mod_eq_sub_mod hkind, Nat.mod_eq_of_lt hrest]
  rfl

/-- The rows of the selector word at every width: which words are read as which row. -/
theorem selectorRows {lenW sel : Nat} (hsel : sel < 2 ^ (lenW + 1)) :
    (decode lenW ⟨.pdu, leBytes (selBytes lenW) sel⟩ = .ok (.decAppkey 5) ↔ sel < 2 ^ lenW ∧ sel = 5) ∧
    (decode lenW ⟨.pdu, leBytes (selBytes lenW) sel⟩ = .ok .decModelpubSig ↔ sel = 2 ^ lenW + 14) ∧
    (decode lenW ⟨.pdu, leBytes (selBytes lenW) sel⟩ = .ok .decModelpubVnd ↔ sel = 2 ^ lenW + 16) ∧
    ((∃ len, decode lenW ⟨.pdu, leBytes (selBytes lenW) sel⟩ = .ok (.decModelpub len)) ↔
      2 ^ lenW ≤ sel ∧ sel ≠ 2 ^ lenW + 14 ∧ sel ≠ 2 ^ lenW + 16) ∧
    ((∃ len, decode lenW ⟨.pdu, leBytes (selBytes lenW) sel⟩ = .ok (.decAppkey len)) ↔ sel < 2 ^ lenW) := by
  by_cases hlow : sel < 2 ^ lenW
  · rw [decode_pdu_low hlow]
    simp only [Except.ok.injEq, Instr.decAppkey.injEq, reduceCtorEq, exists_const, exists_eq', false_iff, true_iff]
    omega
  · rw [decode_pdu_high (by omega) hsel]
    by_cases hsig : sel = 2 ^ lenW + 14
    · simp [pduRowOf, hsig]
    by_cases hvnd : sel = 2 ^ lenW + 16
    · simp [pduRowOf, hvnd]
    · have hsig' : sel - 2 ^ lenW ≠ 14 := by omega
      have hvnd' : sel - 2 ^ lenW ≠ 16 := by omega
      rw [pduRowOf, if_neg hsig', if_neg hvnd']
      simp only [Except.ok.injEq, Instr.decModelpub.injEq, reduceCtorEq, exists_const, exists_eq', false_iff, true_iff]
      omega

/-! ### The table's words at the default width -/

theorem except_toOption_eq_some_iff {ε α : Type} {x : Except ε α} {a : α} : x.toOption = some a ↔ x = .ok a := by
  cases x with
  | ok b => exact ⟨fun h => congrArg Except.ok (Option.some.inj h), fun h => congrArg some (Except.ok.inj h)⟩
  | error e => exact iff_of_false (fun h => nomatch h) fun h => nomatch h

/-- Log 16: a table word of 16 bits is a selector word. -/
theorem decodeTableWord_selector {sel : Nat} {i : Instr} :
    decodeTableWord 16 sel = some i ↔ decode 9 ⟨.pdu, leBytes (selBytes 9) sel⟩ = .ok i :=
  except_toOption_eq_some_iff (x := decode 9 ⟨.pdu, leBytes (selBytes 9) sel⟩)

/-- R63(a): the mask 0x200 keeps the kind bit of a selector word alone. -/
theorem selector_and_kindMask {sel : Nat} (h : sel < 1024) :
    (sel &&& 0x200 = 0x200 ↔ 512 ≤ sel) ∧ (sel &&& 0x200 = 0 ↔ sel < 512) := by
  have hmask : sel &&& 0x200 = (sel.testBit 9).toNat * 0x200 := Nat.and_two_pow sel 9
  by_cases hlow : sel < 512
  · rw [hmask, Nat.testBit_lt_two_pow hlow]
    simp [hlow]
  · rw [hmask, Nat.testBit_of_two_pow_le_and_two_pow_add_one_gt (Nat.le_of_not_lt hlow) h]
    simpa using hlow

/-- Settles O56: the rows at every width, then the table's masks as bounds on the word. -/
theorem selectorRowsMatchTheTable : Obligations.SelectorRowsMatchTheTable := by
  refine ⟨?_, fun sel hsel => ?_⟩
  · rintro lenW sel w hsel rfl
    exact selectorRows hsel
  · have hall : sel &&& 0x3FF = sel := Nat.and_two_pow_sub_one_of_lt_two_pow (n := 10) hsel
    obtain ⟨happ, hsig, hvnd, hparent, hkind⟩ := selectorRows (lenW := 9) hsel
    obtain ⟨hset, hclear⟩ := selector_and_kindMask hsel
    simp only [decodeTableWord_selector, happ, hsig, hvnd, hparent, hkind, hall, hset, hclear]
    omega

/-- Settles O58: each of the ten words is evaluated. -/
theorem writtenOutWordsDecode : Obligations.WrittenOutWordsDecode := by
  unfold Obligations.WrittenOutWordsDecode
  decide

end Sys2Proof.Machine
end

section
/-! PROOF. The rows of the status table and the lookup (spec/40_status_lookup.md rules R70 to R73): a row shows its own entry, and
the row that a code selects shows what the lookup of that code shows. -/

namespace Sys2Proof.Machine

/-! ### The row of a code and the lookup of a code -/

theorem statusRows_code_le {row : Instr} {code : Nat} (h : (row, code) ∈ statusRows) : code ≤ 18 := by
  have hrows : ∀ r ∈ statusRows, r.2 ≤ 18 := by decide
  exact hrows _ h

/-- R70: each row shows the variant that is its code. -/
theorem exec_of_mem_statusRows {row : Instr} {code : Nat} (s : State) (h : (row, code) ∈ statusRows) :
    exec row s = showVariant (BitVec.ofNat 5 code) s := by
  have hrows : ∀ r ∈ statusRows, exec r.1 s = showVariant (BitVec.ofNat 5 r.2) s := by
    intro r hr
    fin_cases hr <;> rfl
  exact hrows _ h

/-- R54, R71: the row that a code selects shows what the lookup of that code shows. -/
theorem exec_statusRowOf (c : Byte) (s : State) : exec (statusRowOf c) s = showVariant (variant c) s := by
  obtain hmem | ⟨hc, hrow⟩ := statusRowOf_cases c
  · rw [exec_of_mem_statusRows s hmem, variant_eq_ofNat, variantNat, min_eq_left (statusRows_code_le hmem)]
  · have hvariant : variant c = rfuVariant := if_neg (by omega)
    rw [hrow, hvariant]
    rfl

/-! ### The statements -/

/-- Settles O2: the code of a row selects that row, which answers as the lookup of the code. -/
theorem statusRowsAnswerTheirEntry : Obligations.StatusRowsAnswerTheirEntry := by
  intro s row code hinst hmem
  have hle := statusRows_code_le hmem
  have hcode : variantNat (BitVec.ofNat 8 code) = code := by
    rw [variantNat, BitVec.toNat_ofNat]
    omega
  have hrow : exec (.lookup (BitVec.ofNat 8 code)) s = exec row s := by
    rw [← statusRowOf_of_mem hmem, exec_statusRowOf]
    rfl
  obtain ⟨name, hname, hexec⟩ := lookupAnswersVariantAndName s (BitVec.ofNat 8 code) hinst
  rw [hcode] at hname hexec
  exact ⟨name, hname, hrow ▸ hexec, hrow⟩

/-- Settles O3: the default arm shows variant 18 whatever its code, and that is the variant of every code from 0x13 on. -/
theorem defaultArmAnswersReserved : Obligations.DefaultArmAnswersReserved := by
  intro s c hinst hc
  have hlookup : exec (.lookup c) s = exec (.statusDefault c) s := by
    rw [← statusRowOf_of_ge hc, exec_statusRowOf]
    rfl
  exact ⟨showVariant_of_name (v := rfuVariant) (nameTable_reserved hinst), hlookup, rfl⟩

/-- Settles O5: the two names are entries 0 and 18 of every table that R162 admits. -/
theorem fixedNamesAreAnswered : Obligations.FixedNamesAreAnswered := by
  intro s c hinst
  obtain ⟨name, hname, hexec⟩ := exec_lookup_eq_next hinst c
  refine ⟨_, hexec, fun hc => ?_, fun hc => ?_⟩
  · obtain ⟨-, -, hsuccess, -⟩ := (instantiable_iff s.params).mp hinst
    subst hc
    exact Option.some.inj (hname.symm.trans hsuccess)
  · rw [variant_toNat_of_ge hc, nameTable_reserved hinst] at hname
    exact (Option.some.inj hname).symm

/-- Settles O6: the variant is the smaller of the code and 18. -/
theorem variantIsTheSmallerOfCodeAndEighteen : Obligations.VariantIsTheSmallerOfCodeAndEighteen := by
  intro c
  rw [variant_toNat]
  omega

end Sys2Proof.Machine
end

section
/-! PROOF. The outcome of a decode (spec/60_exceptions.md rule R147): the error that the kind and the length decide, or else the
message that the buffer holds, and what an operation on a PDU ends in for each. -/

namespace Sys2Proof.Machine

/-! ### The error of a kind and a length, and the message of a buffer -/

/-- R147: the error that the declared kind and the length decide, none where the kind accepts the length. -/
def decodeError (prm : Params) (len : Nat) : Option Kind → Option ErrorKind
  | none => some .noDecoder
  | some .appKeyStatus =>
    if len < 5 then some .truncatedPdu
    else if 5 < len ∧ prm.appkeyOverlength = .reject then some .invalidLength
    else none
  | some .modelPublicationStatus => if len = 14 ∨ len = 16 then none else some .invalidLength

/-- R100: the message of an AppKey Status buffer with a given base. -/
def appKeyMessage (m : Memory) (base : Base) : AppKeyStatus where
  base        := base
  netKeyIndex := kidxA (readMem m 1) (readMem m 2)
  appKeyIndex := kidxB (readMem m 3) (readMem m 4)

/-- R112: the model identifier of a buffer of an accepted length. -/
def modelIdOf (m : Memory) (len : Nat) : ModelId :=
  if len = 14 then ⟨zext32 (mid16 (readMem m 12) (readMem m 13)), .bits16⟩
  else ⟨mid32 (readMem m 12) (readMem m 13) (readMem m 14) (readMem m 15), .bits32⟩

/-- R22: the message of a buffer of either kind with a given base. -/
def messageOf (m : Memory) (len : Nat) (base : Base) : Kind → ConfigStatusMessage
  | .appKeyStatus => .appKeyStatus (appKeyMessage m base)
  | .modelPublicationStatus => .modelPublicationStatus (pubMessage m base (modelIdOf m len))

@[simp] theorem baseOf_messageOf (m : Memory) (len : Nat) (base : Base) (kind : Kind) :
    baseOf (messageOf m len base kind) = base := by cases kind <;> rfl

theorem midsel_eq_modelIdOf (m : Memory) {len : Nat} (hlen : len = 14 ∨ len = 16) :
    midsel m len = .ok (modelIdOf m len) := by
  obtain rfl | rfl := hlen
  · exact midsel_sig m
  · exact midsel_vnd m

/-! ### When a kind accepts a length -/

theorem reject_iff {prm : Params} : prm.appkeyOverlength = .reject ↔ prm.appkeyOverlength ≠ .ignoreTail := by
  cases prm.appkeyOverlength <;> decide

theorem decodeError_appKeyStatus_eq_some_iff {prm : Params} {len : Nat} {k : ErrorKind} :
    decodeError prm len (some .appKeyStatus) = some k ↔
      len < 5 ∧ k = .truncatedPdu ∨ 5 < len ∧ prm.appkeyOverlength = .reject ∧ k = .invalidLength := by
  rw [decodeError]
  split
  · grind
  · split <;> grind

theorem decodeError_modelPublicationStatus_eq_some_iff {prm : Params} {len : Nat} {k : ErrorKind} :
    decodeError prm len (some .modelPublicationStatus) = some k ↔ (len ≠ 14 ∧ len ≠ 16) ∧ k = .invalidLength := by
  rw [decodeError]
  split <;> grind

theorem decodeError_appKeyStatus_eq_none_iff {prm : Params} {len : Nat} :
    decodeError prm len (some .appKeyStatus) = none ↔
      5 ≤ len ∧ (5 < len → prm.appkeyOverlength = .ignoreTail) := by
  rw [decodeError]
  split
  · exact iff_of_false nofun (by omega)
  · split
    · obtain ⟨hlong, hreject⟩ := ‹_ ∧ _›
      exact iff_of_false nofun fun h => reject_iff.mp hreject (h.2 hlong)
    · rename_i hshort hnot
      exact iff_of_true rfl ⟨by omega, fun hlong => by_contra fun h => hnot ⟨hlong, reject_iff.mpr h⟩⟩

theorem decodeError_modelPublicationStatus_eq_none_iff {prm : Params} {len : Nat} :
    decodeError prm len (some .modelPublicationStatus) = none ↔ len = 14 ∨ len = 16 := by
  rw [decodeError]
  split
  · exact iff_of_true rfl ‹_›
  · exact iff_of_false nofun ‹_›

theorem decodeError_eq_none_iff {prm : Params} {kind : Kind} {len : Nat} :
    decodeError prm len (some kind) = none ↔ accepts prm kind len = true := by
  cases kind with
  | appKeyStatus =>
    simp only [decodeError_appKeyStatus_eq_none_iff, accepts, Bool.or_eq_true, Bool.and_eq_true, decide_eq_true_eq]
    grind
  | modelPublicationStatus =>
    rw [decodeError_modelPublicationStatus_eq_none_iff]
    simp [accepts]

theorem pos_of_accepted {prm : Params} {kind : Kind} {len : Nat} (h : decodeError prm len (some kind) = none) :
    0 < len := by
  cases kind with
  | appKeyStatus => have := decodeError_appKeyStatus_eq_none_iff.mp h; omega
  | modelPublicationStatus => have := decodeError_modelPublicationStatus_eq_none_iff.mp h; omega

/-! ### What a decode answers -/

/-- R145: the errors of a decode are those of the kind and the length, whatever the buffer holds. -/
theorem decodeAs_eq_err_iff {prm : Params} {inp : Inputs} {m : Memory} {len : Nat} {kind : Option Kind} {k : ErrorKind} :
    decodeAs prm inp m len kind = .ok (.err k) ↔ decodeError prm len kind = some k := by
  match kind with
  | none => exact ⟨fun h => by cases h; rfl, fun h => by cases h; rfl⟩
  | some .appKeyStatus =>
    rw [decodeError_appKeyStatus_eq_some_iff]
    refine ⟨decAppkey_eq_err, ?_⟩
    rintro (⟨hshort, rfl⟩ | ⟨hlong, hreject, rfl⟩)
    · exact decAppkey_of_lt prm inp m hshort
    · exact (if_neg (Nat.not_lt.mpr hlong.le)).trans (if_pos ⟨hlong, hreject⟩)
  | some .modelPublicationStatus =>
    rw [decodeError_modelPublicationStatus_eq_some_iff]
    refine ⟨decModelpub_eq_err, ?_⟩
    rintro ⟨⟨hsig, hvnd⟩, rfl⟩
    exact decModelpub_of_not_accepted prm inp m hsig hvnd

/-- R100, R101: for an accepted length every read stays below the length. -/
theorem decAppkey_of_accepted {prm : Params} {inp : Inputs} {m : Memory} {len : Nat} {base : Base}
    (hlen : decodeError prm len (some .appKeyStatus) = none) (hbase : makeBase prm inp m len = .ok base) :
    decAppkey prm inp m len = .ok (.ok (.appKeyStatus (appKeyMessage m base))) := by
  obtain ⟨hfive, hover⟩ := decodeError_appKeyStatus_eq_none_iff.mp hlen
  have hshort : ¬ len < akLen := by rw [akLen]; omega
  have haccept : ¬ (akLen < len ∧ prm.appkeyOverlength = .reject) := by
    rintro ⟨hlong, hreject⟩
    exact nomatch hreject.symm.trans (hover hlong)
  have hread {i : Nat} (hi : i < 5) : memRead m len i = .ok (readMem m i) := memRead_of_lt (by omega)
  simp [decAppkey, hshort, haccept, hbase, hread, appKeyMessage]

/-- R120: a buffer that its kind accepts decodes to its message. -/
theorem decodeAs_of_accepted {prm : Params} {inp : Inputs} {m : Memory} {len : Nat} {kind : Kind} {base : Base}
    (hlen : decodeError prm len (some kind) = none) (hbase : makeBase prm inp m len = .ok base) :
    decodeAs prm inp m len (some kind) = .ok (.ok (messageOf m len base kind)) := by
  cases kind with
  | appKeyStatus => exact decAppkey_of_accepted hlen hbase
  | modelPublicationStatus =>
    have haccept := decodeError_modelPublicationStatus_eq_none_iff.mp hlen
    exact decModelpub_of_accepted haccept hbase (midsel_eq_modelIdOf m haccept)

/-- All that a decode can answer: the error of its kind and its length, or the message of its buffer. -/
theorem decodeAs_eq_ok {s : State} {len : Nat} {kind : Option Kind} {r : Result}
    (h : decodeAs s.params s.inputs s.mem len kind = .ok r) :
    (∃ k, decodeError s.params len kind = some k ∧ r = .err k) ∨
    ∃ kind' name, kind = some kind' ∧ decodeError s.params len (some kind') = none ∧
      s.params.nameTable[variantNat (readMem s.mem 0)]? = some name ∧
      r = .ok (messageOf s.mem len (baseFor s len name) kind') := by
  match r, kind with
  | .err k, _ => exact .inl ⟨k, decodeAs_eq_err_iff.mp h, rfl⟩
  | .ok msg, none => cases h
  | .ok msg, some kind' =>
    have haccept : decodeError s.params len (some kind') = none := by
      rw [Option.eq_none_iff_forall_ne_some]
      intro k hk
      cases h.symm.trans (decodeAs_eq_err_iff.mpr hk)
    have hmake := decodeAs_base h
    obtain ⟨name, hname, hbase⟩ := makeBase_eq_ok hmake
    refine .inr ⟨kind', name, rfl, haccept, hname, ?_⟩
    rw [← hbase]
    exact Except.ok.inj (h.symm.trans (decodeAs_of_accepted haccept hmake))

/-- R72, R162: with parameters that R162 admits every decode completes. -/
theorem decodeAs_completes {s : State} (hinst : instantiable s.params = true) (len : Nat) (kind : Option Kind) :
    ∃ r, decodeAs s.params s.inputs s.mem len kind = .ok r := by
  cases herr : decodeError s.params len kind with
  | some k => exact ⟨_, decodeAs_eq_err_iff.mpr herr⟩
  | none =>
    match kind with
    | none => cases herr
    | some kind' =>
      obtain ⟨name, -, hbase⟩ := makeBase_eq_baseFor hinst (pos_of_accepted herr)
      exact ⟨_, decodeAs_of_accepted herr hbase⟩

/-! ### What an operation on a PDU ends in -/

theorem exec_of_decodeAs {i : Instr} {s : State} {len : Nat} {r : Result} (hlen : pduLen i = some len)
    (h : decodeAs s.params s.inputs s.mem len (pduKind s.params i) = .ok r) :
    exec i s = .next (replying (deliver s r) (pduReply i r)) := by
  rw [exec_of_pduLen s hlen, h]
  rfl

/-- R149: an operation whose kind does not accept its length delivers the error, with no value of a unit. -/
theorem exec_of_decodeError {i : Instr} {s : State} {len : Nat} {k : ErrorKind} (hlen : pduLen i = some len)
    (herr : decodeError s.params len (pduKind s.params i) = some k) :
    exec i s = .next { errorState s k (errorCode k) with answer := pduReply i (.err k) } :=
  exec_of_decodeAs hlen (decodeAs_eq_err_iff.mpr herr)

/-- R18, R22: an operation whose kind accepts its length delivers the message of the buffer. -/
theorem exec_of_accepted {i : Instr} {s : State} {len : Nat} {kind : Kind} (hinst : instantiable s.params = true)
    (hlen : pduLen i = some len) (hkind : pduKind s.params i = some kind)
    (haccept : decodeError s.params len (some kind) = none) :
    ∃ name, s.params.nameTable[variantNat (readMem s.mem 0)]? = some name ∧
      exec i s = .next (replying (deliverMessage s (messageOf s.mem len (baseFor s len name) kind))
        (pduReply i (.ok (messageOf s.mem len (baseFor s len name) kind)))) := by
  obtain ⟨name, hname, hbase⟩ := makeBase_eq_baseFor hinst (pos_of_accepted haccept)
  exact ⟨name, hname, exec_of_decodeAs hlen (hkind ▸ decodeAs_of_accepted haccept hbase)⟩

/-- Two operations on the same length as the same kind differ in the answers of their units alone. -/
theorem exec_pdu_congr {i i' : Instr} {s t : State} {len : Nat} (hlen : pduLen i = some len)
    (hlen' : pduLen i' = some len) (hkind : pduKind s.params i' = pduKind s.params i) (h : exec i s = .next t) :
    exec i' s = .next { t with answer := pduReply i' t.returned } := by
  obtain ⟨r, hdecode, rfl⟩ := exec_pdu_next hlen h
  rw [exec_of_decodeAs hlen' (hkind ▸ hdecode)]
  simp [replying]

/-- The same, where no unit answers. -/
theorem exec_eq_of_pduKind_eq {i i' : Instr} {s : State} {len : Nat} (hlen : pduLen i = some len)
    (hlen' : pduLen i' = some len) (hkind : pduKind s.params i' = pduKind s.params i)
    (hreply : pduReply i' = pduReply i) : exec i' s = exec i s := by
  rw [exec_of_pduLen s hlen, exec_of_pduLen s hlen', hkind, hreply]

end Sys2Proof.Machine
end

section
/-! PROOF. Presenting a transaction (spec/10_state.md rules R15 and R16): what its words put on the input ports, by the unit they
address, and what the operation they decode to does there. -/

namespace Sys2Proof.Machine

/-! ### What words put on the ports -/

/-- R16: the ports of a PDU on the direct path, at the decoder and at the message base. -/
theorem presentWords_selWord {lenW len : Nat} {port : Port} (kind : Kind) (inp : Inputs)
    (hport : port = .pdu ∨ port = .base) (hlen : len < 2 ^ lenW) :
    presentWords lenW ⟨port, leBytes (selBytes lenW) (selWord lenW kind len)⟩ inp =
      { inp with path := .direct, kind := kind, len := len } := by
  have hvalue : leValue (leBytes (selBytes lenW) (selWord lenW kind len)) = selWord lenW kind len :=
    leValue_selBytes (selWord_lt ..)
  have hmod : selWord lenW kind len % 2 ^ lenW = len := by rw [selWord_mod, Nat.mod_eq_of_lt hlen]
  obtain rfl | rfl := hport <;> simp [presentWords, hvalue, kindOf_selWord, hmod]

/-- R112: the length that `MIDSEL` chooses by is that of a Model Publication Status buffer. -/
theorem presentWords_midsel {lenW len : Nat} (inp : Inputs) (hlen : len < 2 ^ lenW) :
    presentWords lenW ⟨.midsel, lenBytes lenW len⟩ inp =
      { inp with path := .direct, kind := .modelPublicationStatus, len := len } := by
  simp [presentWords, leValue_lenBytes, Nat.mod_eq_of_lt hlen]

/-- R83: the ports of a PDU at the front end. -/
theorem presentWords_frontEnd {lenW len : Nat} (o3 o2 o1 o0 : Byte) (inp : Inputs) (hlen : len < 2 ^ lenW) :
    presentWords lenW ⟨.frontEnd, o3 :: o2 :: o1 :: o0 :: lenBytes lenW len⟩ inp =
      { inp with path := .frontEnd, opcode := o3 ++ o2 ++ o1 ++ o0, len := len } := by
  simp [presentWords, leValue_lenBytes, Nat.mod_eq_of_lt hlen]

@[simp] theorem pduLen_pduRowOf (kind : Kind) (len : Nat) : pduLen (pduRowOf kind len) = some len := by
  cases kind with
  | appKeyStatus => rfl
  | modelPublicationStatus =>
    by_cases hsig : len = 14
    · rw [hsig]; rfl
    by_cases hvnd : len = 16
    · rw [hvnd]; rfl
    · rw [pduRowOf, if_neg hsig, if_neg hvnd]; rfl

@[simp] theorem pduKind_pduRowOf (prm : Params) (kind : Kind) (len : Nat) :
    pduKind prm (pduRowOf kind len) = some kind := by
  cases kind with
  | appKeyStatus => rfl
  | modelPublicationStatus => rw [pduRowOf]; split <;> [rfl; (split <;> rfl)]

/-! ### The three sorts of transactions -/

/-- The words drive `code_in` with a code, and the operation is the lookup of it (R71, R74). -/
def ShowsCode (w : Words) (i : Instr) (c : Byte) : Prop :=
  (w.port = .codeIn ∨ w.port = .statusRow) ∧ w.bytes = [c] ∧ pduLen i = none ∧
    ∀ s, exec i s = showVariant (variant c) s

/-- The words are the operands of a small unit, which answers on its own (R52). -/
def AnswersAlone (w : Words) (i : Instr) (a : Answer) : Prop :=
  (w.port = .kidxA ∨ w.port = .kidxB ∨ w.port = .mid16 ∨ w.port = .mid32) ∧ pduLen i = none ∧
    ∀ s, exec i s = .next (replying s a)

/-- The words declare a PDU of the kind and the length of the operation, and leave `code_in` alone (R16, R83, R84). -/
def DeclaresPdu (lenW : Nat) (w : Words) (i : Instr) (len : Nat) : Prop :=
  takesBuffer w.port = true ∧ pduLen i = some len ∧ ∀ (prm : Params) (inp : Inputs),
    (presentWords lenW w inp).len = len ∧ declaredKind prm (presentWords lenW w inp) = pduKind prm i ∧
      (presentWords lenW w inp).codeIn = inp.codeIn

/-- R50: whatever decodes is a code to look up, the operands of a small unit, or a declared PDU. -/
theorem decode_sorts {lenW : Nat} {w : Words} {i : Instr} (h : decode lenW w = .ok i) :
    (∃ c, ShowsCode w i c) ∨ (∃ a, AnswersAlone w i a) ∨ ∃ len, DeclaresPdu lenW w i len := by
  obtain ⟨port, bytes⟩ := w
  cases port with
  | codeIn =>
    match bytes with
    | [c] => cases h; exact .inl ⟨c, .inl rfl, rfl, rfl, fun _ => rfl⟩
    | [] | _ :: _ :: _ => cases h
  | statusRow =>
    match bytes with
    | [c] =>
      cases h
      have hlen : pduLen (statusRowOf c) = none := by
        have hrows : ∀ r ∈ statusRows, pduLen r.1 = none := by decide
        obtain hmem | ⟨-, hrow⟩ := statusRowOf_cases c
        · exact hrows _ hmem
        · rw [hrow]; rfl
      exact .inl ⟨c, .inr rfl, rfl, hlen, exec_statusRowOf c⟩
    | [] | _ :: _ :: _ => cases h
  | kidxA | kidxB | mid16 =>
    match bytes with
    | [b0, b1] => cases h; exact .inr (.inl ⟨_, by simp, rfl, fun _ => rfl⟩)
    | [] | [_] | _ :: _ :: _ :: _ => cases h
  | mid32 =>
    match bytes with
    | [b0, b1, b2, b3] => cases h; exact .inr (.inl ⟨_, by simp, rfl, fun _ => rfl⟩)
    | [] | [_] | [_, _] | [_, _, _] | _ :: _ :: _ :: _ :: _ :: _ => cases h
  | midsel =>
    obtain ⟨len, hread, rfl⟩ := except_map_eq_ok h
    obtain ⟨hlen, rfl⟩ := readLen_eq_ok hread
    refine .inr (.inr ⟨len, rfl, rfl, fun prm inp => ?_⟩)
    rw [presentWords_midsel inp hlen]
    exact ⟨rfl, rfl, rfl⟩
  | pdu =>
    obtain ⟨⟨kind, len⟩, hread, rfl⟩ := except_map_eq_ok h
    obtain ⟨hlen, rfl⟩ := readSel_eq_ok hread
    refine .inr (.inr ⟨len, rfl, pduLen_pduRowOf kind len, fun prm inp => ?_⟩)
    rw [presentWords_selWord kind inp (.inl rfl) hlen]
    exact ⟨rfl, (pduKind_pduRowOf prm kind len).symm, rfl⟩
  | base =>
    obtain ⟨⟨kind, len⟩, hread, rfl⟩ := except_map_eq_ok h
    obtain ⟨hlen, rfl⟩ := readSel_eq_ok hread
    refine .inr (.inr ⟨len, rfl, rfl, fun prm inp => ?_⟩)
    rw [presentWords_selWord kind inp (.inr rfl) hlen]
    exact ⟨rfl, rfl, rfl⟩
  | frontEnd =>
    match bytes with
    | o3 :: o2 :: o1 :: o0 :: rest =>
      obtain ⟨len, hread, rfl⟩ := except_map_eq_ok h
      obtain ⟨hlen, rfl⟩ := readLen_eq_ok hread
      refine .inr (.inr ⟨len, rfl, rfl, fun prm inp => ?_⟩)
      rw [presentWords_frontEnd o3 o2 o1 o0 inp hlen]
      exact ⟨rfl, rfl, rfl⟩
    | [] | [_] | [_, _] | [_, _, _] => cases h

/-! ### The state in which a transaction has been presented -/

theorem present_of_showsCode {s : State} {x : Transaction} {i : Instr} {c : Byte} (h : ShowsCode x.words i c)
    (rest : List Transaction) :
    present s x rest = { s with pending := rest, inputs := { s.inputs with codeIn := c } } := by
  obtain ⟨hport, hbytes, -, -⟩ := h
  rcases hport with hport | hport <;> simp [present, presentWords, takesBuffer, hport, hbytes]

theorem present_of_answersAlone {s : State} {x : Transaction} {i : Instr} {a : Answer} (h : AnswersAlone x.words i a)
    (rest : List Transaction) : present s x rest = { s with pending := rest } := by
  obtain ⟨hport, -, -⟩ := h
  rcases hport with hport | hport | hport | hport <;> simp [present, presentWords, takesBuffer, hport]

theorem present_of_takesBuffer {x : Transaction} (h : takesBuffer x.words.port = true) (s : State)
    (rest : List Transaction) :
    present s x rest = { s with
      pending := rest, mem := writeBytes s.mem 0 x.buffer,
      inputs := { presentWords s.params.lenW x.words s.inputs with
        akf := x.akf, aid := x.aid % 2 ^ s.params.aidW } } := by
  simp [present, h]

/-- R16, R83, R84: once a PDU is presented, the input ports declare the kind and the length of its operation. -/
theorem present_declares {s : State} {x : Transaction} {i : Instr} {len : Nat}
    (h : DeclaresPdu s.params.lenW x.words i len) (rest : List Transaction) :
    (present s x rest).inputs.len = len ∧ declaredKind s.params (present s x rest).inputs = pduKind s.params i ∧
      (present s x rest).inputs.codeIn = s.inputs.codeIn := by
  obtain ⟨htakes, -, hdeclares⟩ := h
  rw [present_of_takesBuffer htakes]
  exact hdeclares s.params s.inputs

theorem present_mem_wf {s : State} (h : s.mem.wf = true) (x : Transaction) (rest : List Transaction) :
    (present s x rest).mem.wf = true := by
  rw [present_mem]
  split
  · exact writeBytes_wf 0 x.buffer h
  · exact h

theorem presentWords_aid (lenW : Nat) (w : Words) (inp : Inputs) : (presentWords lenW w inp).aid = inp.aid := by
  obtain ⟨port, bytes⟩ := w
  cases port with
  | frontEnd =>
    match bytes with
    | [] | [_] | [_, _] | [_, _, _] | _ :: _ :: _ :: _ :: _ => rfl
  | _ => rfl

/-- R16: presenting keeps a value of the `aid` port on it. -/
theorem present_aid_lt {s : State} (h : s.inputs.aid < 2 ^ s.params.aidW) (x : Transaction) (rest : List Transaction) :
    (present s x rest).inputs.aid < 2 ^ s.params.aidW := by
  by_cases htakes : takesBuffer x.words.port = true
  · rw [present_of_takesBuffer htakes]
    exact Nat.mod_lt _ (Nat.two_pow_pos _)
  · have hwords := presentWords_aid s.params.lenW x.words s.inputs
    simpa [present, htakes, hwords] using h

end Sys2Proof.Machine
end

section
/-! PROOF. The invariant of the block (spec/10_state.md rules R15 to R21): its outputs are the function of the inputs present, after
reset, once the outputs have settled, and after every transaction. -/

namespace Sys2Proof.Machine

/-! ### The block as one function -/

/-- R81, R83, R84: the block decodes its buffer as the kind that its input ports declare. -/
theorem evaluate_eq_decodeAs (prm : Params) (inp : Inputs) (m : Memory) :
    evaluate prm inp m = decodeAs prm inp m inp.len (declaredKind prm inp) := by
  unfold evaluate declaredKind
  cases inp.path with
  | direct => rfl
  | frontEnd => exact decodeOpcode_eq_decodeAs ..

/-- R162: with parameters that R162 admits the block has outputs for all inputs. -/
theorem transact_completes {s : State} (hinst : instantiable s.params = true) :
    ∃ o, transact s.params s.inputs s.mem = .ok o := by
  obtain ⟨r, hr⟩ := decodeAs_completes hinst s.inputs.len (declaredKind s.params s.inputs)
  obtain ⟨name, -, hname⟩ := nameOf_ok hinst (variant_lt s.inputs.codeIn)
  exact ⟨_, transact_ok ((evaluate_eq_decodeAs ..).trans hr) hname⟩

/-! ### Consistency, part by part -/

/-- The outputs are the function of the inputs where the result, the ports and the name each are. -/
theorem consistent_of_outputs {s : State} (hinst : instantiable s.params = true) (hmem : s.mem.wf = true)
    (haid : s.inputs.aid < 2 ^ s.params.aidW) (hresult : evaluate s.params s.inputs s.mem = .ok s.returned)
    (hports : s.ports = drivePorts (variant s.inputs.codeIn) s.returned)
    (hname : nameOf s.params (variant s.inputs.codeIn) = .ok s.lookupName) : Consistent s :=
  ⟨hinst, hmem, haid, hports ▸ transact_ok hresult hname⟩

/-- R15: what the outputs of a consistent state are. -/
theorem Consistent.outputs {s : State} (hs : Consistent s) :
    evaluate s.params s.inputs s.mem = .ok s.returned ∧ s.ports = drivePorts (variant s.inputs.codeIn) s.returned ∧
      nameOf s.params (variant s.inputs.codeIn) = .ok s.lookupName :=
  transact_eq_ok hs.transacted

/-- R21: a state whose outputs have settled is consistent. -/
theorem settle_consistent {s t : State} (hinst : instantiable s.params = true) (hmem : s.mem.wf = true)
    (haid : s.inputs.aid < 2 ^ s.params.aidW) (h : settle s = .next t) : Consistent t := by
  obtain ⟨o, ho, rfl⟩ := settle_next h
  exact ⟨hinst, hmem, haid, ho⟩

/-- R74: a code on `code_in` changes the lookup's outputs and no other. -/
theorem showVariant_consistent {s t : State} {rest : List Transaction} {c : Byte} (hs : Consistent s)
    (h : showVariant (variant c) { s with pending := rest, inputs := { s.inputs with codeIn := c } } = .next t) :
    Consistent t := by
  obtain ⟨hresult, hports, -⟩ := hs.outputs
  obtain ⟨name, hname, rfl⟩ := showVariant_next h
  refine consistent_of_outputs hs.instance_ok hs.memory_wf hs.aid_fits hresult ?_ hname
  change { s.ports with nameId := variant c } = drivePorts (variant c) s.returned
  rw [drivePorts_eq_with_nameId (variant c) (variant s.inputs.codeIn), ← hports]

/-- R14: the answer of a small unit is no output of the block. -/
theorem replying_consistent {s : State} (hs : Consistent s) (rest : List Transaction) (a : Answer) :
    Consistent (replying { s with pending := rest } a) := by
  obtain ⟨hinst, hmem, haid, htransact⟩ := hs
  exact ⟨hinst, hmem, haid, htransact⟩

/-- R15: the outputs of a decode are the function of the inputs that declare its PDU, and `name_id` stays as `code_in` does. -/
theorem exec_pdu_consistent {s t : State} {x : Transaction} {rest : List Transaction} {i : Instr} {len : Nat}
    (hs : Consistent s) (hx : DeclaresPdu s.params.lenW x.words i len) (h : exec i (present s x rest) = .next t) :
    Consistent t := by
  obtain ⟨-, hports, hname⟩ := hs.outputs
  obtain ⟨hlen, hkind, hcode⟩ := present_declares hx rest
  obtain ⟨-, hpduLen, -⟩ := hx
  obtain ⟨r, hdecode, rfl⟩ := exec_pdu_next hpduLen h
  refine consistent_of_outputs (by simpa using hs.instance_ok) (by simpa using present_mem_wf hs.memory_wf x rest)
    (by simpa using present_aid_lt hs.aid_fits x rest) ?_ ?_ ?_
  · rw [present_params, ← hkind, ← hlen] at hdecode
    simpa [evaluate_eq_decodeAs] using hdecode
  · simp [hcode, hports]
  · simpa [hcode] using hname

/-- Settles O48: a step settles the outputs, looks a code up, lets a small unit answer, or decodes the PDU presented. -/
theorem stepKeepsOutputsConsistent : Obligations.StepKeepsOutputsConsistent := by
  intro s t hs h
  obtain ⟨-, ⟨-, hsettle⟩ | ⟨x, rest, i, -, hdecode, -, hexec⟩⟩ := step_next h
  · exact settle_consistent hs.instance_ok hs.memory_wf hs.aid_fits hsettle
  · obtain ⟨c, hx⟩ | ⟨a, hx⟩ | ⟨len, hx⟩ := decode_sorts hdecode
    · rw [present_of_showsCode hx] at hexec
      obtain ⟨-, -, -, hshow⟩ := hx
      exact showVariant_consistent hs (hshow _ ▸ hexec)
    · rw [present_of_answersAlone hx] at hexec
      obtain ⟨-, -, hanswer⟩ := hx
      cases (hanswer _).symm.trans hexec
      exact replying_consistent hs rest a
    · exact exec_pdu_consistent hs hx hexec

/-! ### Steps with nothing pending -/

theorem step_of_idle {s : State} (hinst : instantiable s.params = true) (hidle : s.pending = []) :
    step s = settle s := by
  simp [step, hinst, hidle]

/-- R14: a consistent state in which no unit answers has settled. -/
theorem settle_of_consistent {s : State} (hs : Consistent s) (hsilent : s.answer = .silent) : settle s = .next s := by
  rw [settle, hs.transacted]
  simp [replying, ← hsilent]

/-- Settles O49: the block has outputs for the inputs as they stand, and they do not change what it computes. -/
theorem idleStepSettlesTheOutputs : Obligations.IdleStepSettlesTheOutputs := by
  intro s hinst hmem haid hidle
  obtain ⟨o, ho⟩ := transact_completes hinst
  have hsettle : settle s = .next { s with
      returned := o.returned, ports := o.ports, lookupName := o.lookupName, answer := .silent } := by
    rw [settle, ho]
    rfl
  have hconsistent := settle_consistent hinst hmem haid hsettle
  refine ⟨_, (step_of_idle hinst hidle).trans hsettle, hconsistent, rfl, rfl, rfl, ?_⟩
  exact (step_of_idle hconsistent.instance_ok hidle).trans (settle_of_consistent hconsistent rfl)

/-! ### Reset -/

/-- Settles O47: the inputs at reset declare an empty AppKey Status buffer, which is `TruncatedPdu`, and code 0. -/
theorem resetIsConsistent : Obligations.ResetIsConsistent := by
  intro prm hinst
  obtain ⟨-, -, hsuccess, -⟩ := (instantiable_iff prm).mp hinst
  have hname : nameOf prm (variant 0) = .ok "Success" := by
    have hzero : (variant 0).toNat = 0 := by decide
    rw [nameOf, hzero, hsuccess]
  exact consistent_of_outputs (s := State.resetWith prm) hinst rfl (Nat.two_pow_pos _) rfl rfl hname

/-- Settles O46: the ports at reset are those of the error, and the state at reset is consistent. -/
theorem resetShowsTheEmptyBuffer : Obligations.ResetShowsTheEmptyBuffer := by
  refine ⟨rfl, fun prm => ⟨rfl, rfl, rfl, fieldsZero_drivePorts_err 0 .truncatedPdu, rfl, rfl, rfl, rfl, fun hinst => ?_⟩⟩
  exact (step_of_idle hinst rfl).trans (settle_of_consistent (resetIsConsistent prm hinst) rfl)

end Sys2Proof.Machine
end

section
/-! PROOF. The outcomes of a decode and its errors (spec/60_exceptions.md rules R145 and R147): the table of outcomes, the code on
`result`, and the bytes that an outcome depends on. -/

namespace Sys2Proof.Machine

/-! ### The table of outcomes -/

/-- R83, R84: the outcome of a buffer that its declared kind accepts. -/
theorem evaluate_of_accepted {prm : Params} {inp : Inputs} {m : Memory} {kind : Kind} (hinst : instantiable prm = true)
    (hkind : declaredKind prm inp = some kind) (haccept : decodeError prm inp.len (some kind) = none) :
    ∃ base, evaluate prm inp m = .ok (.ok (messageOf m inp.len base kind)) := by
  obtain ⟨name, -, hbase⟩ := makeBase_ok hinst inp m (pos_of_accepted haccept)
  rw [evaluate_eq_decodeAs, hkind]
  exact ⟨_, decodeAs_of_accepted haccept hbase⟩

/-- R145: the outcome of a buffer that its declared kind does not accept, or that has no declared kind. -/
theorem evaluate_of_decodeError {prm : Params} {inp : Inputs} {k : ErrorKind} (m : Memory)
    (herr : decodeError prm inp.len (declaredKind prm inp) = some k) : evaluate prm inp m = .ok (.err k) := by
  rw [evaluate_eq_decodeAs]
  exact decodeAs_eq_err_iff.mpr herr

/-- Settles O30: the error of the declared kind and the length, or the message of the kind that accepts the length. -/
theorem outcomeTableIsComplete : Obligations.OutcomeTableIsComplete := by
  intro prm inp m hinst
  match hkind : declaredKind prm inp with
  | none =>
    exact ⟨_, evaluate_of_decodeError m (by rw [hkind, decodeError]), fun _ => rfl, nofun, nofun⟩
  | some .appKeyStatus =>
    cases herr : decodeError prm inp.len (some .appKeyStatus) with
    | some k =>
      refine ⟨_, evaluate_of_decodeError m (hkind ▸ herr), nofun, fun _ => ?_, nofun⟩
      obtain ⟨hshort, rfl⟩ | ⟨hlong, hreject, rfl⟩ := decodeError_appKeyStatus_eq_some_iff.mp herr
      · exact ⟨fun _ => rfl, fun h => by omega, fun h => by omega, fun h => by omega⟩
      · exact ⟨fun h => by omega, fun h => by omega, fun _ _ => rfl, fun _ h => nomatch hreject.symm.trans h⟩
    | none =>
      obtain ⟨base, heval⟩ := evaluate_of_accepted (m := m) hinst hkind herr
      obtain ⟨hfive, hover⟩ := decodeError_appKeyStatus_eq_none_iff.mp herr
      exact ⟨_, heval, nofun, fun _ => ⟨fun h => by omega, fun _ => ⟨_, rfl⟩,
        fun hlong hreject => (nomatch hreject.symm.trans (hover hlong)), fun _ _ => ⟨_, rfl⟩⟩, nofun⟩
  | some .modelPublicationStatus =>
    cases herr : decodeError prm inp.len (some .modelPublicationStatus) with
    | some k =>
      refine ⟨_, evaluate_of_decodeError m (hkind ▸ herr), nofun, nofun, fun _ => ?_⟩
      obtain ⟨⟨hsig, hvnd⟩, rfl⟩ := decodeError_modelPublicationStatus_eq_some_iff.mp herr
      exact ⟨fun h => absurd h hsig, fun h => absurd h hvnd, fun _ _ => rfl⟩
    | none =>
      obtain ⟨base, heval⟩ := evaluate_of_accepted (m := m) hinst hkind herr
      refine ⟨_, heval, nofun, nofun, fun _ => ⟨fun h => ⟨_, rfl, ?_⟩, fun h => ⟨_, rfl, ?_⟩, fun hsig hvnd => ?_⟩⟩
      · rw [h]; rfl
      · rw [h]; rfl
      · have := decodeError_modelPublicationStatus_eq_none_iff.mp herr
        omega

/-! ### The result port -/

@[simp] theorem drivePorts_ok_result (v : BitVec 5) (msg : ConfigStatusMessage) :
    (drivePorts v (.ok msg)).result = 0 := by cases msg <;> rfl

/-- R142, R147: the errors that a kind and a length decide. -/
theorem decodeError_eq_some {prm : Params} {len : Nat} {kind : Option Kind} {k : ErrorKind}
    (h : decodeError prm len kind = some k) : k = .truncatedPdu ∨ k = .invalidLength ∨ k = .noDecoder := by
  match kind with
  | none => cases h; exact .inr (.inr rfl)
  | some .appKeyStatus =>
    obtain ⟨-, rfl⟩ | ⟨-, -, rfl⟩ := decodeError_appKeyStatus_eq_some_iff.mp h
    · exact .inl rfl
    · exact .inr (.inl rfl)
  | some .modelPublicationStatus =>
    obtain ⟨-, rfl⟩ := decodeError_modelPublicationStatus_eq_some_iff.mp h
    exact .inr (.inl rfl)

/-- Settles O33: `result` carries 0 with a message, and otherwise the code of one of the three errors. -/
theorem resultPortTagsTheOutcome : Obligations.ResultPortTagsTheOutcome := by
  intro i s t len hlen hexec
  obtain ⟨r, hdecode, rfl⟩ := exec_pdu_next hlen hexec
  cases r with
  | ok msg => exact .inl ⟨drivePorts_ok_result _ msg, msg, rfl⟩
  | err k =>
    obtain rfl | rfl | rfl := decodeError_eq_some (decodeAs_eq_err_iff.mp hdecode)
    · exact .inr (.inl ⟨rfl, rfl⟩)
    · exact .inr (.inr (.inl ⟨rfl, rfl⟩))
    · exact .inr (.inr (.inr ⟨rfl, rfl⟩))

/-- R142: no decode answers `UnrecognizedStatusCode`. -/
theorem decodeAs_ne_unrecognizedStatusCode {prm : Params} {inp : Inputs} {m : Memory} {len : Nat} {kind : Option Kind} :
    decodeAs prm inp m len kind ≠ .ok (.err .unrecognizedStatusCode) := by
  intro h
  obtain hk | hk | hk := decodeError_eq_some (decodeAs_eq_err_iff.mp h) <;> cases hk

/-- Settles O34: a step settles to a decode, returns a decode, or leaves the result as it was. -/
theorem unrecognizedStatusCodeNeverProduced : Obligations.UnrecognizedStatusCodeNeverProduced := by
  intro s t h herr
  obtain ⟨-, ⟨-, hsettle⟩ | ⟨x, rest, i, -, -, -, hexec⟩⟩ := step_next h
  · obtain ⟨o, ho, rfl⟩ := settle_next hsettle
    obtain ⟨hresult, -, -⟩ := transact_eq_ok ho
    have hk : o.returned = .err .unrecognizedStatusCode := herr
    rw [evaluate_eq_decodeAs, hk] at hresult
    exact absurd hresult decodeAs_ne_unrecognizedStatusCode
  · cases hlen : pduLen i with
    | some len =>
      obtain ⟨hdecode, -⟩ := exec_pdu_returned hlen hexec
      rw [herr] at hdecode
      exact absurd hdecode decodeAs_ne_unrecognizedStatusCode
    | none =>
      obtain ⟨v, hv⟩ | ⟨a, ha⟩ := exec_of_pduLen_none (present s x rest) hlen
      · obtain ⟨name, -, rfl⟩ := showVariant_next (hv ▸ hexec)
        simpa using herr
      · cases ha.symm.trans hexec
        simpa using herr

/-! ### The bytes that an outcome depends on -/

/-- Where a decode answers the same for another buffer, the operation ends in the same state but for the buffer. -/
theorem exec_pdu_with_mem {i : Instr} {s t : State} {m : Memory} {len : Nat} (hlen : pduLen i = some len)
    (hexec : exec i s = .next t)
    (hdecode : decodeAs s.params s.inputs m len (pduKind s.params i) = .ok t.returned) :
    exec i { s with mem := m } = .next { t with mem := m } := by
  obtain ⟨-, ht⟩ := exec_pdu_returned hlen hexec
  rw [exec_of_decodeAs (s := { s with mem := m }) hlen hdecode]
  conv_rhs => rw [ht]
  simp [deliver_eq, replying]

/-- Settles O35: the error is that of the kind and the length, which another buffer does not change. -/
theorem errorsReadNoByte : Obligations.ErrorsReadNoByte := by
  intro i s t m len k hlen hexec herr
  obtain ⟨hdecode, -⟩ := exec_pdu_returned hlen hexec
  rw [herr, decodeAs_eq_err_iff] at hdecode
  exact exec_pdu_with_mem hlen hexec (herr ▸ decodeAs_eq_err_iff.mpr hdecode)

/-- Settles O36: a decode is a function of the bytes below the length. -/
theorem bytesBeyondLengthAreUnread : Obligations.BytesBeyondLengthAreUnread := by
  intro i s t m len hlen hbytes hexec
  obtain ⟨hdecode, -⟩ := exec_pdu_returned hlen hexec
  exact exec_pdu_with_mem hlen hexec (decodeAs_congr s.params _ rfl rfl hbytes ▸ hdecode)

/-! ### Where the selected decoder returns an error -/

/-- Settles O14: the decoder turns the buffer away, so that `MIDSEL` has nothing to choose from. -/
theorem midselTurnedAwayOnOtherLengths : Obligations.MidselTurnedAwayOnOtherLengths := by
  intro s len hsig hvnd
  exact exec_of_decodeError (i := .midsel len) rfl
    (decodeError_modelPublicationStatus_eq_some_iff.mpr ⟨⟨hsig, hvnd⟩, rfl⟩)

theorem pduLen_decoderOf (kind : Kind) (len : Nat) : pduLen (decoderOf kind len) = some len := by cases kind <;> rfl

theorem pduKind_decoderOf (prm : Params) (kind : Kind) (len : Nat) : pduKind prm (decoderOf kind len) = some kind := by
  cases kind <;> rfl

/-- Settles O26: `BASE` and the selected decoder deliver the same error, with which no base was evaluated. -/
theorem baseNotEvaluatedOnError : Obligations.BaseNotEvaluatedOnError := by
  intro s kind len haccept
  obtain ⟨k, herr⟩ : ∃ k, decodeError s.params len (some kind) = some k := by
    rw [← Option.ne_none_iff_exists', ne_eq, decodeError_eq_none_iff]
    simp [haccept]
  exact ⟨_, k, exec_of_decodeError (pduLen_decoderOf kind len) (pduKind_decoderOf s.params kind len ▸ herr), rfl,
    exec_of_decodeError (i := .base kind len) rfl herr, fieldsZero_drivePorts_err s.ports.nameId k⟩

end Sys2Proof.Machine
end

section
/-! PROOF. The inverses of the assemblies: the packings of a key index (spec/42_key_index_unpack.md rule R93) and the bytes of a model
identifier (spec/44_model_id_extract.md rule R113). -/

namespace Sys2Proof.Machine

/-! ### Packing a key index -/

/-- R93: `KIDX.A` of the packing `PACK.A` is the index. -/
@[simp] theorem kidxA_packA (k : BitVec 12) : kidxA (packA k).1 (packA k).2 = k := by
  rw [packA, kidxA, lowNibble, BitVec.extractLsb'_append_eq_right]
  exact BitVec.extractLsb'_append_extractLsb' (w := 4) (len := 8)

/-- R93: `KIDX.B` of the packing `PACK.B` is the index. -/
@[simp] theorem kidxB_packB (k : BitVec 12) : kidxB (packB k).1 (packB k).2 = k := by
  rw [packB, kidxB, highNibble, BitVec.extractLsb'_append_eq_left]
  exact BitVec.extractLsb'_append_extractLsb' (w := 8) (len := 4)

/-- R6(c): a byte with its high nibble cleared. -/
theorem zero_append_lowNibble (b : Byte) : 0#4 ++ lowNibble b = b &&& 0x0F#8 := by
  apply BitVec.eq_of_toNat_eq
  rw [BitVec.toNat_append, lowNibble_toNat, BitVec.toNat_and, BitVec.toNat_zero, Nat.zero_shiftLeft, Nat.zero_or]
  rfl

/-- R6(c): a byte with its low nibble cleared. -/
theorem highNibble_append_zero (b : Byte) : highNibble b ++ 0#4 = b &&& 0xF0#8 := by
  apply BitVec.eq_of_toNat_eq
  have hmask : b.toNat &&& 0xF0 = ((b.toNat &&& 0xF0) >>> 4) <<< 4 ||| (b.toNat &&& 0xF0) % 2 ^ 4 :=
    (shiftRight_shiftLeft_or_mod _ 4).symm
  have hlow : (b.toNat &&& 0xF0) % 2 ^ 4 = 0 := by rw [Nat.and_mod_two_pow, Nat.and_zero]
  rw [BitVec.toNat_append, highNibble_toNat, BitVec.toNat_and, BitVec.toNat_zero]
  change _ = b.toNat &&& 0xF0
  rw [hmask, hlow, byte_and_highMask_shiftRight]

/-- R93: `PACK.A` of an unpacked pair clears the nibble that `KIDX.A` does not read. -/
@[simp] theorem packA_kidxA (lo hi : Byte) : packA (kidxA lo hi) = (lo, hi &&& 0x0F#8) := by
  rw [packA, kidxA, BitVec.extractLsb'_append_eq_left, BitVec.extractLsb'_append_eq_right, zero_append_lowNibble]

/-- R93: `PACK.B` of an unpacked pair clears the nibble that `KIDX.B` does not read. -/
@[simp] theorem packB_kidxB (lo hi : Byte) : packB (kidxB lo hi) = (lo &&& 0xF0#8, hi) := by
  rw [packB, kidxB, BitVec.extractLsb'_append_eq_left, BitVec.extractLsb'_append_eq_right, highNibble_append_zero]

theorem packA_toNat (k : BitVec 12) : (packA k).1.toNat = k.toNat &&& 0xFF ∧ (packA k).2.toNat = k.toNat >>> 8 := by
  have hk := k.isLt
  constructor
  · rw [packA, BitVec.extractLsb'_toNat, Nat.shiftRight_zero]
    exact (Nat.and_two_pow_sub_one_eq_mod k.toNat 8).symm
  · rw [packA, BitVec.toNat_append, BitVec.extractLsb'_toNat, BitVec.toNat_zero, Nat.zero_shiftLeft, Nat.zero_or,
      Nat.shiftRight_eq_div_pow]
    omega

theorem packB_toNat (k : BitVec 12) :
    (packB k).1.toNat = (k.toNat &&& 0x0F) <<< 4 ∧ (packB k).2.toNat = k.toNat >>> 4 := by
  have hk := k.isLt
  constructor
  · rw [packB, BitVec.toNat_append, BitVec.extractLsb'_toNat, Nat.shiftRight_zero, BitVec.toNat_zero, Nat.or_zero]
    exact congrArg (· <<< 4) (Nat.and_two_pow_sub_one_eq_mod k.toNat 4).symm
  · rw [packB, BitVec.extractLsb'_toNat, Nat.shiftRight_eq_div_pow]
    omega

/-- Settles O9: the packings as numbers, and both compositions with the unpackings. -/
theorem keyIndexPackingInverts : Obligations.KeyIndexPackingInverts := by
  refine ⟨fun s k => ?_, fun lo hi => ⟨packA_kidxA lo hi, packB_kidxB lo hi⟩⟩
  obtain ⟨hAlow, hAhigh⟩ := packA_toNat k
  obtain ⟨hBlow, hBhigh⟩ := packB_toNat k
  have hA : exec (.kidxA (packA k).1 (packA k).2) s = .next (replying s (.kidxA (kidxA (packA k).1 (packA k).2))) := rfl
  have hB : exec (.kidxB (packB k).1 (packB k).2) s = .next (replying s (.kidxB (kidxB (packB k).1 (packB k).2))) := rfl
  rw [kidxA_packA] at hA
  rw [kidxB_packB] at hB
  exact ⟨hAlow, hAhigh, hBlow, hBhigh, hA, hB⟩

/-! ### The bytes of a model identifier -/

/-- The byte of a value from bit `k` on, as a formula with the mask 0xFF gives it. -/
theorem ofNat_shiftRight_and_mask {n : Nat} (v : BitVec n) (k : Nat) :
    BitVec.ofNat 8 (v.toNat >>> k &&& 0xFF) = v.extractLsb' k 8 := by
  apply BitVec.eq_of_toNat_eq
  rw [BitVec.toNat_ofNat, BitVec.extractLsb'_toNat, Nat.and_two_pow_sub_one_eq_mod _ 8, Nat.mod_mod]

theorem ofNat_and_mask {n : Nat} (v : BitVec n) : BitVec.ofNat 8 (v.toNat &&& 0xFF) = v.extractLsb' 0 8 :=
  ofNat_shiftRight_and_mask v 0

/-- R113: a 16-bit identifier from its bytes. -/
theorem mid16_extractLsb' (v : BitVec 16) : mid16 (v.extractLsb' 0 8) (v.extractLsb' 8 8) = v :=
  BitVec.extractLsb'_append_extractLsb' (w := 8) (len := 8)

/-- R113: a 32-bit identifier from its bytes. -/
theorem mid32_extractLsb' (v : BitVec 32) :
    mid32 (v.extractLsb' 16 8) (v.extractLsb' 24 8) (v.extractLsb' 0 8) (v.extractLsb' 8 8) = v := by
  have hhigh : mid16 (v.extractLsb' 16 8) (v.extractLsb' 24 8) = v.extractLsb' 16 16 :=
    BitVec.extractLsb'_append_extractLsb'_eq_extractLsb' rfl
  have hlow : mid16 (v.extractLsb' 0 8) (v.extractLsb' 8 8) = v.extractLsb' 0 16 :=
    BitVec.extractLsb'_append_extractLsb'_eq_extractLsb' rfl
  rw [mid32, hhigh, hlow]
  exact BitVec.extractLsb'_append_extractLsb' (w := 16) (len := 16)

theorem mid16_inj {b0 b1 c0 c1 : Byte} (h : mid16 b0 b1 = mid16 c0 c1) : b0 = c0 ∧ b1 = c1 :=
  (append_inj h).symm

/-- Settles O12: both assemblies from the bytes of a value, and both as concatenations of their bytes. -/
theorem modelIdAssembliesRoundTrip : Obligations.ModelIdAssembliesRoundTrip := by
  refine ⟨fun s v => ?_, fun s v => ?_, fun b0 b1 c0 c1 h => mid16_inj h, fun b0 b1 b2 b3 c0 c1 c2 c3 h => ?_⟩
  · rw [ofNat_and_mask]
    exact congrArg (fun w => Host.Outcome.next (replying s (.mid16 w))) (mid16_extractLsb' v)
  · rw [ofNat_and_mask, ofNat_shiftRight_and_mask, ofNat_shiftRight_and_mask]
    exact congrArg (fun w => Host.Outcome.next (replying s (.mid32 w))) (mid32_extractLsb' v)
  · obtain ⟨hfirst, hsecond⟩ := append_inj h
    obtain ⟨h0, h1⟩ := mid16_inj hfirst
    obtain ⟨h2, h3⟩ := mid16_inj hsecond
    exact ⟨h0, h1, h2, h3⟩

end Sys2Proof.Machine
end

section
/-! PROOF. The AppKey Status decoder (spec/43_appkey_status.md): its fields, the lengths it turns away, and the round trip with its
packing (rule R104). -/

namespace Sys2Proof.Machine

/-- R100, R101: an accepted length ends with the status and the two indices, on the record and on the ports. -/
theorem exec_decAppkey_of_accepted {s : State} {len : Nat} (hinst : instantiable s.params = true)
    (haccept : decodeError s.params len (some .appKeyStatus) = none) :
    ∃ name, s.params.nameTable[variantNat (readMem s.mem 0)]? = some name ∧
      exec (.decAppkey len) s = .next { s with
        returned := .ok (.appKeyStatus (appKeyMessage s.mem (baseFor s len name)))
        ports := { okPorts s name with
          netKeyIndex := kidxA (readMem s.mem 1) (readMem s.mem 2)
          appKeyIndex := kidxB (readMem s.mem 3) (readMem s.mem 4) }
        answer := .silent } :=
  exec_of_accepted (i := .decAppkey len) hinst rfl rfl haccept

/-- R100: 5 bytes are accepted for both values of `APPKEY_OVERLENGTH`. -/
theorem decodeError_appKeyStatus_five (prm : Params) : decodeError prm 5 (some .appKeyStatus) = none :=
  decodeError_appKeyStatus_eq_none_iff.mpr ⟨le_rfl, fun h => absurd h (lt_irrefl 5)⟩

/-- Settles O15: the error below 5 bytes, and the message of 5 bytes with its indices as numbers. -/
theorem appKeyStatusDecoded : Obligations.AppKeyStatusDecoded := by
  refine fun s hinst => ⟨fun len hlen => ?_, ?_⟩
  · exact exec_of_decodeError (i := .decAppkey len) rfl (decodeError_appKeyStatus_eq_some_iff.mpr (.inl ⟨hlen, rfl⟩))
  · obtain ⟨name, hname, hexec⟩ := exec_decAppkey_of_accepted hinst (decodeError_appKeyStatus_five s.params)
    exact ⟨name, _, _, hname, kidxA_toNat _ _, kidxB_toNat _ _, hexec⟩

/-- Settles O16: above 5 bytes the parameter alone decides between the error and the message. -/
theorem appKeyOverlengthByParameter : Obligations.AppKeyOverlengthByParameter := by
  refine fun s len hinst hlong => ⟨fun hreject => ?_, fun hignore => ?_⟩
  · exact exec_of_decodeError (i := .decAppkey len) rfl
      (decodeError_appKeyStatus_eq_some_iff.mpr (.inr ⟨hlong, hreject, rfl⟩))
  · obtain ⟨name, hname, hexec⟩ := exec_decAppkey_of_accepted hinst
      (decodeError_appKeyStatus_eq_none_iff.mpr ⟨hlong.le, fun _ => hignore⟩)
    exact ⟨name, _, _, hname, kidxA_toNat _ _, kidxB_toNat _ _, hexec⟩

/-! ### The round trip -/

/-- R104: the packing of the whole message is the status and the packings of the two indices. -/
theorem packAk5_eq (status : Byte) (net app : BitVec 12) :
    packAk5 status net app = [status, (packA net).1, (packA net).2, (packB app).1, (packB app).2] := rfl

/-- Settles O18: the two directions are those of the packings of the two indices. -/
theorem appKeyPackingRoundTrips : Obligations.AppKeyPackingRoundTrips := by
  constructor
  · intro s st n a hinst hbytes
    simp only [packAk5_eq] at hbytes
    have hstatus : st = readMem s.mem 0 := Option.some.inj (hbytes 0 (by decide))
    have hnet : kidxA (readMem s.mem 1) (readMem s.mem 2) = n := by
      rw [← Option.some.inj (hbytes 1 (by decide)), ← Option.some.inj (hbytes 2 (by decide)), kidxA_packA]
    have happ : kidxB (readMem s.mem 3) (readMem s.mem 4) = a := by
      rw [← Option.some.inj (hbytes 3 (by decide)), ← Option.some.inj (hbytes 4 (by decide)), kidxB_packB]
    obtain ⟨name, -, hexec⟩ := exec_decAppkey_of_accepted hinst (decodeError_appKeyStatus_five s.params)
    refine ⟨_, baseFor s 5 name, hexec, ?_, hstatus.symm⟩
    rw [← hnet, ← happ]
    rfl
  · intro s t msg hexec hmsg
    obtain ⟨hdecode, -⟩ := exec_pdu_returned (len := 5) rfl hexec
    obtain ⟨k, -, hk⟩ | ⟨kind, name, hkind, -, -, hr⟩ := decodeAs_eq_ok hdecode
    · cases hmsg.symm.trans hk
    · cases hkind
      cases hmsg.symm.trans hr
      simp [packAk5_eq, appKeyMessage, baseFor]

end Sys2Proof.Machine
end

section
/-! PROOF. The units evaluated inside a decode: `MIDSEL` (spec/44_model_id_extract.md rule R112), the message base and the opcode
front end (spec/41_message_base_dispatch.md rules R80 to R84). -/

namespace Sys2Proof.Machine

/-! ### The choice of the identifier -/

/-- R112: `MIDSEL` answers the identifier of the message that `DEC.MODELPUB` delivers, whose outputs follow. -/
theorem exec_midsel_of_decModelpub {s t : State} {len : Nat} {p : ModelPublicationStatus}
    (h : exec (.decModelpub len) s = .next t) (hmsg : t.returned = .ok (.modelPublicationStatus p)) :
    exec (.midsel len) s = .next { t with answer := .midsel (some p.modelId) } := by
  rw [exec_pdu_congr (i := .decModelpub len) (i' := .midsel len) rfl rfl rfl h, hmsg]
  rfl

/-- Settles O13: the messages of 14 and of 16 bytes, with the identifier of each as the answer. -/
theorem midselChoosesByLength : Obligations.MidselChoosesByLength := by
  refine fun s hinst => ⟨?_, ?_⟩
  · obtain ⟨name, p, -, -, -, hid, hwidth, hexec⟩ := modelPubSigDecoded s (.decModelpub 14) hinst (.inl rfl)
    have hmidsel := exec_midsel_of_decModelpub hexec rfl
    rw [show p.modelId = ⟨p.modelId.identifier, .bits16⟩ from hwidth ▸ rfl] at hmidsel
    exact ⟨_, _, hexec, hid, hmidsel, rfl, rfl⟩
  · obtain ⟨name, p, -, -, -, hid, hwidth, hexec⟩ := modelPubVndDecoded s (.decModelpub 16) hinst (.inl rfl)
    have hmidsel := exec_midsel_of_decModelpub hexec rfl
    rw [show p.modelId = ⟨p.modelId.identifier, .bits32⟩ from hwidth ▸ rfl] at hmidsel
    exact ⟨_, _, hexec, hid, hmidsel, rfl, rfl⟩

/-- R125: the upper half of the longer identifier is the shorter one. -/
theorem mid32_shiftRight (b0 b1 b2 b3 : Byte) : (mid32 b0 b1 b2 b3).toNat >>> 16 = (mid16 b0 b1).toNat := by
  rw [mid32_toNat_halves, Nat.shiftRight_or_distrib, Nat.shiftLeft_shiftRight,
    Nat.shiftRight_eq_zero _ 16 (mid16 b2 b3).isLt, Nat.or_zero]

/-- Settles O23: both messages are those of one buffer, with the same name of the same status code. -/
theorem longerBufferKeepsEveryOtherField : Obligations.LongerBufferKeepsEveryOtherField := by
  intro s hinst
  have haccept {len : Nat} (hlen : len = 14 ∨ len = 16) :
      decodeError s.params len (some .modelPublicationStatus) = none :=
    decodeError_modelPublicationStatus_eq_none_iff.mpr hlen
  obtain ⟨name, hname, hsig⟩ := exec_of_accepted (i := .decModelpubSig) hinst rfl rfl (haccept (.inl rfl))
  obtain ⟨name', hname', hvnd⟩ := exec_of_accepted (i := .decModelpubVnd) hinst rfl rfl (haccept (.inr rfl))
  obtain rfl : name = name' := Option.some.inj (hname.symm.trans hname')
  have hid : (zext32 (mid16 (readMem s.mem 12) (readMem s.mem 13))).toNat =
      (mid16 (readMem s.mem 12) (readMem s.mem 13)).toNat := zext32_toNat _
  exact ⟨_, _, pubMessage s.mem (baseFor s 14 name) (modelIdOf s.mem 14),
    pubMessage s.mem (baseFor s 16 name) (modelIdOf s.mem 16), hsig, hvnd, rfl, rfl, rfl, rfl,
    (mid32_shiftRight _ _ _ _).trans hid.symm, hid.trans_le (Nat.le_of_lt_succ (BitVec.isLt _))⟩

/-! ### The message base -/

/-- R80: the base fields on the ports of a message of either kind. -/
theorem drivePorts_messageOf (v : BitVec 5) (m : Memory) (len : Nat) (base : Base) (kind : Kind) :
    (drivePorts v (.ok (messageOf m len base kind))).result = 0 ∧
    (drivePorts v (.ok (messageOf m len base kind))).akfOut = base.akf ∧
    (drivePorts v (.ok (messageOf m len base kind))).aidOut = base.aid ∧
    (drivePorts v (.ok (messageOf m len base kind))).statusCode = base.statusCode ∧
    (drivePorts v (.ok (messageOf m len base kind))).statusVariant = base.statusVariant ∧
    (drivePorts v (.ok (messageOf m len base kind))).statusName = some base.statusCodeName := by
  cases kind <;> exact ⟨rfl, rfl, rfl, rfl, rfl, rfl⟩

theorem baseFor_statusVariant_toNat (s : State) (len : Nat) (name : String) :
    (baseFor s len name).statusVariant.toNat = variantNat (readMem s.mem 0) := by
  change (BitVec.ofNat 5 _).toNat = _
  rw [← variant_eq_ofNat, variant_toNat, variantNat]

/-- Settles O25: the selected decoder delivers the message, and `BASE` answers the base of it. -/
theorem baseOfAnAcceptedBuffer : Obligations.BaseOfAnAcceptedBuffer := by
  intro s kind len hinst haccept
  obtain ⟨name, hname, hexec⟩ := exec_of_accepted hinst (pduLen_decoderOf kind len) (pduKind_decoderOf s.params kind len)
    (decodeError_eq_none_iff.mpr haccept)
  have hbase := exec_pdu_congr (i' := .base kind len) (pduLen_decoderOf kind len) rfl
    (pduKind_decoderOf s.params kind len).symm hexec
  obtain ⟨hresult, hakf, haid, hcode, hvariant, hstatusName⟩ :=
    drivePorts_messageOf s.ports.nameId s.mem len (baseFor s len name) kind
  refine ⟨_, name, hexec, hname, ?_, hresult, hakf, haid, hcode, ?_, hstatusName⟩
  · rw [hbase]
    simp [pduReply, baseAnswer, deliverMessage]
  · exact (congrArg BitVec.toNat hvariant).trans (baseFor_statusVariant_toNat s len name)

/-! ### The opcode front end -/

/-- R83: the opcode constant of a kind selects that kind. -/
theorem opcodeKind_opcodeOf {prm : Params} (hinst : instantiable prm = true) (kind : Kind) :
    opcodeKind prm (opcodeOf prm kind) = some kind := by
  obtain ⟨hdistinct, -⟩ := (instantiable_iff prm).mp hinst
  cases kind with
  | appKeyStatus => exact if_pos rfl
  | modelPublicationStatus => exact (if_neg hdistinct.symm).trans (if_pos rfl)

/-- R83: an opcode that is neither constant has no decoder. -/
theorem opcodeKind_eq_none {prm : Params} {opcode : BitVec 32} (hak : opcode ≠ prm.opcAppkeyStatus)
    (hmp : opcode ≠ prm.opcModelPubStatus) : opcodeKind prm opcode = none :=
  (if_neg hak).trans (if_neg hmp)

/-- Settles O27: `DECODE` commits the decode of the kind that its opcode selects. -/
theorem decodeSelectsByOpcode : Obligations.DecodeSelectsByOpcode := by
  intro s opcode len hinst
  refine ⟨?_, ?_, fun hak hmp => ?_⟩
  · rintro rfl
    exact exec_eq_of_pduKind_eq (len := len) rfl rfl (opcodeKind_opcodeOf hinst .appKeyStatus) rfl
  · rintro rfl
    exact exec_eq_of_pduKind_eq (len := len) rfl rfl (opcodeKind_opcodeOf hinst .modelPublicationStatus) rfl
  · have herr : decodeError s.params len (opcodeKind s.params opcode) = some .noDecoder := by
      rw [opcodeKind_eq_none hak hmp, decodeError]
    exact exec_of_decodeError (i := .decodeOp opcode len) rfl herr

/-- Settles O28: each constant selects the decoder of its kind, which delivers the message of an accepted length. -/
theorem decodeCompletesForBothConstants : Obligations.DecodeCompletesForBothConstants := by
  refine fun s hinst => ⟨?_, fun len hlen => ?_⟩
  · obtain ⟨name, -, hexec⟩ := exec_of_accepted (i := .decodeOp s.params.opcAppkeyStatus 5) hinst rfl
      (opcodeKind_opcodeOf hinst .appKeyStatus) (decodeError_appKeyStatus_five s.params)
    exact ⟨_, _, _, _, hexec, rfl, rfl, kidxA_toNat _ _, kidxB_toNat _ _⟩
  · obtain ⟨name, -, hexec⟩ := exec_of_accepted (i := .decodeOp s.params.opcModelPubStatus len) hinst rfl
      (opcodeKind_opcodeOf hinst .modelPublicationStatus) (decodeError_modelPublicationStatus_eq_none_iff.mpr hlen)
    exact ⟨_, _, hexec, rfl, pubMessage_prefixOf s _ _, rfl, by rintro rfl; rfl, by rintro rfl; rfl⟩

end Sys2Proof.Machine
end

section
/-! PROOF. What the output ports of a decode depend on (spec/40_status_lookup.md rule R76, spec/10_state.md rule R16,
spec/30_encoding.md rule R55): the fields of the message, with the status apart from the rest. -/

namespace Sys2Proof.Machine

/-! ### Ports of messages that differ in the base alone -/

/-- R80: two messages of one buffer with the same security fields differ at the status ports alone. -/
theorem drivePorts_messageOf_of_security_eq (v : BitVec 5) (m : Memory) (len : Nat) {base base' : Base} (kind : Kind)
    (hakf : base'.akf = base.akf) (haid : base'.aid = base.aid) :
    drivePorts v (.ok (messageOf m len base' kind)) =
      { drivePorts v (.ok (messageOf m len base kind)) with
        statusCode := (drivePorts v (.ok (messageOf m len base' kind))).statusCode,
        statusVariant := (drivePorts v (.ok (messageOf m len base' kind))).statusVariant,
        statusName := (drivePorts v (.ok (messageOf m len base' kind))).statusName } := by
  cases kind with
  | appKeyStatus => simp [messageOf, appKeyMessage, drivePorts, basePorts, hakf, haid]
  | modelPublicationStatus => simp [messageOf, pubMessage, drivePorts, basePorts, hakf, haid]

/-- R24: the raw parameters of a message reach no port. -/
theorem drivePorts_messageOf_parameters (v : BitVec 5) (m : Memory) (len : Nat) (base : Base) (kind : Kind)
    (bytes : List Byte) :
    drivePorts v (.ok (messageOf m len { base with parameters := bytes } kind)) =
      drivePorts v (.ok (messageOf m len base kind)) := by
  cases kind <;> rfl

theorem baseFor_with_mem {s : State} {m : Memory} (len : Nat) {name : String} (h : readMem m 0 = readMem s.mem 0) :
    baseFor { s with mem := m } len name = { baseFor s len name with parameters := buffer m len } := by
  simp [baseFor, h, aidOf]

/-! ### Two runs on buffers that give the same message up to its base -/

section

variable {i : Instr} {s t t' : State} {m : Memory} {len : Nat} (hlen : pduLen i = some len)
  (hfields : ∀ kind base, pduKind s.params i = some kind → decodeError s.params len (some kind) = none →
    messageOf m len base kind = messageOf s.mem len base kind)
  (h : exec i s = .next t) (h' : exec i { s with mem := m } = .next t')

include hlen hfields h h'

/-- The runs end in the same error, or in two messages of the first buffer, each with the base of its own. -/
theorem exec_pdu_two_buffers :
    (∃ k, t.returned = .err k ∧ t'.returned = .err k ∧ t'.ports = t.ports) ∨
    ∃ kind name name', 0 < len ∧ s.params.nameTable[variantNat (readMem s.mem 0)]? = some name ∧
      s.params.nameTable[variantNat (readMem m 0)]? = some name' ∧
      t.returned = .ok (messageOf s.mem len (baseFor s len name) kind) ∧
      t'.returned = .ok (messageOf s.mem len (baseFor { s with mem := m } len name') kind) ∧
      t.ports = drivePorts s.ports.nameId t.returned ∧ t'.ports = drivePorts s.ports.nameId t'.returned := by
  obtain ⟨r, hdecode, rfl⟩ := exec_pdu_next hlen h
  obtain ⟨r', hdecode', rfl⟩ := exec_pdu_next hlen h'
  obtain ⟨k, hk, rfl⟩ | ⟨kind, name, hkind, haccept, hname, rfl⟩ := decodeAs_eq_ok hdecode
  · obtain rfl : Result.err k = r' := Except.ok.inj ((decodeAs_eq_err_iff.mpr hk).symm.trans hdecode')
    exact .inl ⟨k, rfl, rfl, rfl⟩
  · obtain ⟨k, hk, rfl⟩ | ⟨kind', name', hkind', -, hname', rfl⟩ := decodeAs_eq_ok hdecode'
    · rw [hkind, haccept] at hk
      cases hk
    · obtain rfl : kind = kind' := Option.some.inj (hkind.symm.trans hkind')
      refine .inr ⟨kind, name, name', pos_of_accepted haccept, hname, hname', rfl, ?_, rfl, rfl⟩
      exact congrArg Result.ok (hfields kind _ hkind haccept)

/-- The runs fail alike. -/
theorem exec_pdu_err_iff (k : ErrorKind) : t.returned = .err k ↔ t'.returned = .err k := by
  obtain ⟨k', hr, hr', -⟩ | ⟨kind, name, name', -, -, -, hr, hr', -, -⟩ := exec_pdu_two_buffers hlen hfields h h' <;>
    simp [hr, hr']

/-- The runs drive the same ports but for the status. -/
theorem exec_pdu_ports_eq_but_status :
    t'.ports = { t.ports with statusCode := t'.ports.statusCode, statusVariant := t'.ports.statusVariant,
                              statusName := t'.ports.statusName } := by
  obtain ⟨k, -, -, hports⟩ | ⟨kind, name, name', -, -, -, hr, hr', hports, hports'⟩ :=
    exec_pdu_two_buffers hlen hfields h h'
  · rw [hports]
  · rw [hports, hports', hr, hr']
    exact drivePorts_messageOf_of_security_eq s.ports.nameId s.mem len kind rfl rfl

/-- With the same status code too, the runs drive the same ports. -/
theorem exec_pdu_ports_eq (hstatus : 0 < len → readMem m 0 = readMem s.mem 0) : t'.ports = t.ports := by
  obtain ⟨k, -, -, hports⟩ | ⟨kind, name, name', hpos, hname, hname', hr, hr', hports, hports'⟩ :=
    exec_pdu_two_buffers hlen hfields h h'
  · exact hports
  · have hbyte := hstatus hpos
    obtain rfl : name = name' := Option.some.inj (hname.symm.trans (hbyte ▸ hname'))
    rw [hports, hports', hr, hr', baseFor_with_mem len hbyte, drivePorts_messageOf_parameters]

end

/-! ### Buffers that agree beyond the status code -/

/-- R5 `WIN`: the message of a buffer, but for its base, takes bytes 1 to 15 alone. -/
theorem messageOf_congr {m m' : Memory} (len : Nat) (base : Base) (kind : Kind)
    (h : ∀ j, j ≠ 0 → j < 16 → readMem m j = readMem m' j) : messageOf m len base kind = messageOf m' len base kind := by
  cases kind with
  | appKeyStatus => simp [messageOf, appKeyMessage, h]
  | modelPublicationStatus => simp [messageOf, pubMessage, modelIdOf, h]

/-- Settles O31: byte 0 reaches the base alone. -/
theorem statusCodeGatesNothing : Obligations.StatusCodeGatesNothing := by
  intro i s t t' m len hlen hbytes h h'
  have hfields (kind : Kind) (base : Base) : messageOf m len base kind = messageOf s.mem len base kind :=
    messageOf_congr len base kind fun j hj _ => hbytes j hj
  exact ⟨exec_pdu_ports_eq_but_status hlen (fun kind base _ _ => hfields kind base) h h',
    exec_pdu_err_iff hlen (fun kind base _ _ => hfields kind base) h h'⟩

/-- R16: the window is the bytes below 16. -/
theorem readMem_eq_of_window_eq {m m' : Memory} (h : window m = window m') {j : Nat} (hj : j < 16) :
    readMem m j = readMem m' j :=
  List.map_inj_left.mp h j (List.mem_range.mpr hj)

/-- Settles O60: beyond the window a decode takes the raw parameters alone, which reach no port. -/
theorem windowDecidesThePorts : Obligations.WindowDecidesThePorts := by
  intro i s t t' m len hlen hwindow h h'
  have hbyte {j : Nat} (hj : j < 16) : readMem m j = readMem s.mem j := readMem_eq_of_window_eq hwindow.symm hj
  have hfields (kind : Kind) (base : Base) : messageOf m len base kind = messageOf s.mem len base kind :=
    messageOf_congr len base kind fun j _ hj => hbyte hj
  exact ⟨exec_pdu_ports_eq hlen (fun kind base _ _ => hfields kind base) h h' fun _ => hbyte (by decide),
    exec_pdu_err_iff hlen (fun kind base _ _ => hfields kind base) h h'⟩

/-! ### Buffers that agree in the bits that formulas read -/

/-- R55: `P[2][7:4]` reaches no field. -/
theorem lowNibble_and_mask (b : Byte) : lowNibble (b &&& 0x0F#8) = lowNibble b := by
  rw [lowNibble, BitVec.extractLsb'_and]
  exact BitVec.and_allOnes

/-- R55: `P[3][3:0]` reaches no field. -/
theorem highNibble_and_mask (b : Byte) : highNibble (b &&& 0xF0#8) = highNibble b := by
  rw [highNibble, BitVec.extractLsb'_and]
  exact BitVec.and_allOnes

/-- R55: `P[9][4:0]` reaches no field. -/
theorem topThree_and_mask (b : Byte) : topThree (b &&& 0xE0#8) = topThree b := by
  rw [topThree, BitVec.extractLsb'_and]
  exact BitVec.and_allOnes

/-- R55: `P[11][7:5]` reaches no field. -/
theorem lowFive_and_mask (b : Byte) : lowFive (b &&& 0x1F#8) = lowFive b := by
  rw [lowFive, BitVec.extractLsb'_and]
  exact BitVec.and_allOnes

theorem appKeyMessage_congr {m m' : Memory} (base : Base) (h1 : readMem m 1 = readMem m' 1)
    (h2 : readMem m 2 &&& 0x0F#8 = readMem m' 2 &&& 0x0F#8) (h3 : readMem m 3 &&& 0xF0#8 = readMem m' 3 &&& 0xF0#8)
    (h4 : readMem m 4 = readMem m' 4) : appKeyMessage m base = appKeyMessage m' base := by
  have hlow : lowNibble (readMem m 2) = lowNibble (readMem m' 2) := by rw [← lowNibble_and_mask, h2, lowNibble_and_mask]
  have hhigh : highNibble (readMem m 3) = highNibble (readMem m' 3) := by
    rw [← highNibble_and_mask, h3, highNibble_and_mask]
  simp [appKeyMessage, kidxA, kidxB, h1, hlow, hhigh, h4]

theorem pubMessage_congr {m m' : Memory} (base : Base) (modelId : ModelId)
    (h : ∀ j, j < 9 → readMem m j = readMem m' j)
    (h9 : readMem m 9 &&& 0xE0#8 = readMem m' 9 &&& 0xE0#8) (h11 : readMem m 11 &&& 0x1F#8 = readMem m' 11 &&& 0x1F#8) :
    pubMessage m base modelId = pubMessage m' base modelId := by
  have htop : topThree (readMem m 9) = topThree (readMem m' 9) := by rw [← topThree_and_mask, h9, topThree_and_mask]
  have hlow : lowFive (readMem m 11) = lowFive (readMem m' 11) := by rw [← lowFive_and_mask, h11, lowFive_and_mask]
  simp [pubMessage, h, htop, hlow]

theorem modelIdOf_congr {m m' : Memory} {len : Nat} (hlen : len = 14 ∨ len = 16)
    (h : ∀ j, 12 ≤ j → j < len → readMem m j = readMem m' j) : modelIdOf m len = modelIdOf m' len := by
  obtain rfl | rfl := hlen <;> simp [modelIdOf, h]

/-- Settles O37: the two formats, each by the masks of its formulas. -/
theorem ignoredBitsReachNoPort : Obligations.IgnoredBitsReachNoPort := by
  constructor
  · intro s t t' m hbytes h4 h2 h3 h h'
    have hfields (kind : Kind) (base : Base) (hkind : pduKind s.params (.decAppkey 5) = some kind) :
        messageOf m 5 base kind = messageOf s.mem 5 base kind := by
      cases hkind
      exact congrArg _ (appKeyMessage_congr base (hbytes 1 (by decide)) h2 h3 h4).symm
    exact (exec_pdu_ports_eq rfl (fun kind base hkind _ => hfields kind base hkind) h h'
      fun _ => (hbytes 0 (by decide)).symm).symm
  · intro s t t' m len hbytes h9 h11 h h'
    have hfields (kind : Kind) (base : Base) (hkind : pduKind s.params (.decModelpub len) = some kind)
        (haccept : decodeError s.params len (some kind) = none) :
        messageOf m len base kind = messageOf s.mem len base kind := by
      cases hkind
      have hlen := decodeError_modelPublicationStatus_eq_none_iff.mp haccept
      rw [messageOf, messageOf,
        modelIdOf_congr hlen fun j hj hlt => (hbytes j hlt (by omega) (by omega) (by omega)).symm,
        pubMessage_congr base _ (fun j hj => hbytes j (by omega) (by omega) (by omega) (by omega)) h9 h11]
    exact (exec_pdu_ports_eq (len := len) rfl hfields h h' fun hpos =>
      (hbytes 0 hpos (by decide) (by decide) (by decide)).symm).symm

end Sys2Proof.Machine
end

section
/-! PROOF. The step of the block (spec/60_exceptions.md rule R162, spec/10_state.md rules R14 to R16): what it refuses, that everything
else completes, and that no transaction depends on an earlier one. -/

namespace Sys2Proof.Machine

/-! ### The step by the next transaction -/

/-- R162: parameters that are not admitted make every step a refusal. -/
theorem step_of_not_instantiable {s : State} (h : instantiable s.params ≠ true) : step s = .refused .notInstantiable :=
  if_neg h

/-- R15: words that decode run their operation, where the `aid` port carries the identifier. -/
theorem step_of_decode {s : State} {x : Transaction} {rest : List Transaction} {i : Instr}
    (hinst : instantiable s.params = true) (hpending : s.pending = x :: rest)
    (hdecode : decode s.params.lenW x.words = .ok i) :
    step s = if carried s.params x then exec i (present s x rest) else .refused .aidTooWide := by
  simp [step, hinst, hpending, hdecode]

/-- Settles O43: each ground is a part of what `instantiable` asks. -/
theorem badInstancesAreRefused : Obligations.BadInstancesAreRefused := by
  intro s hbad
  refine step_of_not_instantiable fun hinst => ?_
  obtain ⟨hopcode, hlength, hsuccess, hreserved, htotal⟩ := (instantiable_iff s.params).mp hinst
  obtain h | h | h | h | h := hbad
  · exact hopcode h
  · exact h hlength
  · exact h hsuccess
  · exact h hreserved
  · exact nomatch htotal.symm.trans h

/-- Settles O44: the step of words that decode and of an identifier that is carried, and what presenting leaves. -/
theorem stepRunsTheDecodedOperation : Obligations.StepRunsTheDecodedOperation := by
  intro s t rest i hinst hpending hdecode hcarried
  exact ⟨(step_of_decode hinst hpending hdecode).trans (if_pos hcarried), present_pending s t rest,
    present_params s t rest, present_ports s t rest⟩

/-! ### Completion -/

/-- R72: every variant that an operation shows has a name, and the small units have no error. -/
theorem exec_completes_of_pduLen_none {i : Instr} {s : State} (hinst : instantiable s.params = true)
    (h : pduLen i = none) : ∃ t, exec i s = .next t := by
  have hshow {v : BitVec 5} (hv : v.toNat < nStatus) : ∃ t, showVariant v s = .next t := by
    obtain ⟨name, hname, -⟩ := nameOf_ok hinst hv
    exact ⟨_, showVariant_of_name hname⟩
  cases i with
  | midsel | decAppkey | decModelpub | decModelpubSig | decModelpubVnd | base | decodeOp => cases h
  | kidxA | kidxB | mid16 | mid32 => exact ⟨_, rfl⟩
  | lookup c => exact hshow (variant_lt c)
  | statusDefault c => exact hshow (v := rfuVariant) (by decide)
  | _ => exact hshow (v := _) (by decide)

/-- Settles O41: a decode completes, and so does the lookup of every variant below 19. -/
theorem everyOperationCompletes : Obligations.EveryOperationCompletes := by
  intro i s hinst
  cases hlen : pduLen i with
  | none => exact exec_completes_of_pduLen_none hinst hlen
  | some len =>
    obtain ⟨r, hr⟩ := decodeAs_completes hinst len (pduKind s.params i)
    exact ⟨_, exec_of_decodeAs hlen hr⟩

/-- R16, R52, R63: a transaction that the ports carry. -/
theorem presentable_iff {prm : Params} {t : Transaction} :
    presentable prm t = true ↔ ∃ i, decode prm.lenW t.words = .ok i ∧ carried prm t = true := by
  unfold presentable
  cases decode prm.lenW t.words with
  | ok i => simp
  | error e => simp

/-- Settles O42: the idle step has outputs to settle to, and any other runs an operation, which completes. -/
theorem everyStepCompletes : Obligations.EveryStepCompletes := by
  intro s hinst hpresentable
  match hpending : s.pending with
  | [] =>
    obtain ⟨o, ho⟩ := transact_completes hinst
    exact ⟨_, by rw [step_of_idle hinst hpending, settle, ho]⟩
  | x :: rest =>
    obtain ⟨i, hdecode, hcarried⟩ := presentable_iff.mp (hpresentable x rest hpending)
    rw [step_of_decode hinst hpending hdecode, if_pos hcarried]
    exact everyOperationCompletes i _ (by rwa [present_params])

/-! ### What a step leaves of the buffer and of the identifier -/

/-- Settles O50: presenting writes bytes in canonical form, and no operation writes any. -/
theorem stepKeepsMemoryCanonical : Obligations.StepKeepsMemoryCanonical := by
  intro s t hmem h
  obtain ⟨-, ⟨-, hsettle⟩ | ⟨x, rest, i, -, -, -, hexec⟩⟩ := step_next h
  · obtain ⟨o, -, rfl⟩ := settle_next hsettle
    exact hmem
  · obtain ⟨-, -, -, hsame⟩ := exec_frame hexec
    rw [hsame]
    exact present_mem_wf hmem x rest

/-- R18: the ports after an operation on a PDU are those of what it returns. -/
theorem exec_pdu_ports {i : Instr} {s t : State} {len : Nat} (hlen : pduLen i = some len) (h : exec i s = .next t) :
    t.ports = drivePorts s.ports.nameId t.returned := by
  obtain ⟨r, -, rfl⟩ := exec_pdu_next hlen h
  simp

theorem drivePorts_ok_aidOut (v : BitVec 5) (msg : ConfigStatusMessage) :
    (drivePorts v (.ok msg)).aidOut = (baseOf msg).aid := by cases msg <;> rfl

/-- Settles O59: a message carries the number on the port, an error zero, and a wider identifier is not presented. -/
theorem aidPassesAtItsWidth : Obligations.AidPassesAtItsWidth := by
  constructor
  · intro i s t len hlen hexec
    have hports := exec_pdu_ports hlen hexec
    have hmessage (msg : ConfigStatusMessage) (hmsg : t.returned = .ok msg) :
        t.ports.aidOut = (baseOf msg).aid ∧ (baseOf msg).aid = aidOf s := by
      obtain ⟨name, -, hbase⟩ := everyMessageCarriesItsBase i s t len msg hlen hexec hmsg
      exact ⟨by rw [hports, hmsg, drivePorts_ok_aidOut], by rw [hbase, baseFor]⟩
    refine ⟨?_, fun msg hmsg => ?_⟩
    · match hr : t.returned with
      | .ok msg =>
        obtain ⟨hout, haid⟩ := hmessage msg hr
        rw [hout, haid, aidOf]
        exact Nat.mod_lt _ (Nat.two_pow_pos _)
      | .err k =>
        rw [hports, hr]
        exact Nat.two_pow_pos _
    · obtain ⟨hout, haid⟩ := hmessage msg hmsg
      exact ⟨hout, haid, fun hfits => by rw [hout, haid, aidOf, Nat.mod_eq_of_lt hfits]⟩
  · intro s t rest i hinst hpending hdecode htakes hwide
    have hcarried : carried s.params t = false := by
      simp [carried, htakes, Transaction.aidFits, hwide]
    rw [step_of_decode hinst hpending hdecode, hcarried]
    rfl

/-! ### What presenting a PDU drives -/

/-- R173: presenting a buffer puts each of its bytes at its index and leaves the others. -/
theorem readMem_present {s : State} {x : Transaction} (hmem : s.mem.wf = true)
    (htakes : takesBuffer x.words.port = true) (rest : List Transaction) (j : Nat) :
    readMem (present s x rest).mem j = if j < x.buffer.length then x.buffer.getD j 0#8 else readMem s.mem j := by
  rw [present_mem, if_pos htakes, readMem_writeBytes 0 j x.buffer hmem]
  simp

/-- Settles O45: the selector word is read back from its bytes, and the buffer byte by byte. -/
theorem presentingAPduDrivesItsPorts : Obligations.PresentingAPduDrivesItsPorts := by
  intro s t rest kind len hmem hlen hwords
  have htakes : takesBuffer t.words.port = true := by rw [hwords]; rfl
  refine ⟨?_, fun j hj => ?_, fun j hj => ?_⟩
  · rw [present_of_takesBuffer htakes, hwords, presentWords_selWord kind s.inputs (.inl rfl) hlen]
  · rw [readMem_present hmem htakes, if_pos hj, List.getD_eq_getElem _ _ hj]
  · rw [readMem_present hmem htakes, if_neg (by omega)]

/-! ### Two presentations of the same transaction -/

/-- The step of words that decode, where it ends in a next state. -/
theorem exec_of_step {s t : State} {x : Transaction} {rest : List Transaction} {i : Instr} (hpending : s.pending = x :: rest)
    (hdecode : decode s.params.lenW x.words = .ok i) (h : step s = .next t) : exec i (present s x rest) = .next t := by
  obtain ⟨-, ⟨hidle, -⟩ | ⟨x', rest', i', hpending', hdecode', -, hexec⟩⟩ := step_next h
  · cases hpending.symm.trans hidle
  · cases hpending.symm.trans hpending'
    cases hdecode.symm.trans hdecode'
    exact hexec

/-- R14, R84, R105, R128: two presentations of one buffer as one kind deliver one result, whatever was there before and
whichever operations deliver it. -/
theorem exec_present_congr {s s' u u' : State} {x x' : Transaction} {rest rest' : List Transaction} {i i' : Instr}
    {len : Nat} (hparams : s'.params = s.params) (htakes : takesBuffer x.words.port = true)
    (htakes' : takesBuffer x'.words.port = true) (hakf : x.akf = x'.akf) (haid : x.aid = x'.aid)
    (hbytes : SameBytes len (present s x rest).mem (present s' x' rest').mem) (hlen : pduLen i = some len)
    (hlen' : pduLen i' = some len) (hkind : pduKind s.params i' = pduKind s.params i)
    (hexec : exec i (present s x rest) = .next u) (hexec' : exec i' (present s' x' rest') = .next u') :
    ∃ r, u = replying (deliver (present s x rest) r) (pduReply i r) ∧
      u' = replying (deliver (present s' x' rest') r) (pduReply i' r) := by
  obtain ⟨r, hr, rfl⟩ := exec_pdu_next hlen hexec
  obtain ⟨r', hr', rfl⟩ := exec_pdu_next hlen' hexec'
  have hakf' : (present s x rest).inputs.akf = (present s' x' rest').inputs.akf := by
    rw [present_of_takesBuffer htakes, present_of_takesBuffer htakes', hakf]
  have haid' : (present s x rest).inputs.aid = (present s' x' rest').inputs.aid := by
    rw [present_of_takesBuffer htakes, present_of_takesBuffer htakes', haid, hparams]
  rw [present_params, decodeAs_congr s.params _ hakf' haid' hbytes] at hr
  rw [present_params, hparams, hkind, hr] at hr'
  obtain rfl : r = r' := Except.ok.inj hr'
  exact ⟨r, rfl, rfl⟩

theorem pduReply_pduRowOf (kind : Kind) (len : Nat) : pduReply (pduRowOf kind len) = noReply := by
  cases kind with
  | appKeyStatus => rfl
  | modelPublicationStatus => rw [pduRowOf]; split <;> [rfl; (split <;> rfl)]

/-- Settles O29: both fronts present one buffer as one kind, so that one decode is delivered. -/
theorem directAndOpcodePathsAgree : Obligations.DirectAndOpcodePathsAgree := by
  intro s u v t t' kind len hlen hwords hwords' hbuffer hakf haid hstep hstep'
  have htakes : takesBuffer t.words.port = true := by rw [hwords]; rfl
  have htakes' : takesBuffer t'.words.port = true := by rw [hwords']; rfl
  have hdecode := decode_pdu_selWord s.params.lenW kind len
  have hdecode' := decode_frontEnd s.params.lenW (opcodeOf s.params kind) len
  rw [← hwords, Nat.mod_eq_of_lt hlen] at hdecode
  rw [← hwords', Nat.mod_eq_of_lt hlen] at hdecode'
  obtain ⟨hinst, -⟩ := step_next hstep
  have hexec := exec_of_step (s := { s with pending := [t] }) rfl hdecode hstep
  have hexec' := exec_of_step (s := { s with pending := [t'] }) rfl hdecode' hstep'
  have hkind : pduKind s.params (.decodeOp (opcodeOf s.params kind) len) = pduKind s.params (pduRowOf kind len) :=
    (opcodeKind_opcodeOf hinst kind).trans (pduKind_pduRowOf s.params kind len).symm
  have hbytes : SameBytes len (present { s with pending := [t] } t []).mem (present { s with pending := [t'] } t' []).mem := by
    intro j _
    rw [present_mem, present_mem, if_pos htakes, if_pos htakes', hbuffer]
  obtain ⟨r, rfl, rfl⟩ := exec_present_congr rfl htakes htakes' hakf haid hbytes (pduLen_pduRowOf kind len) rfl hkind
    hexec hexec'
  refine ⟨by simp, by simp, ?_⟩
  rw [pduReply_pduRowOf]
  rfl

/-- R14, R152: a PDU with its true length, presented after any two histories. -/
theorem exec_pdu_of_histories {s s' u u' : State} {x : Transaction} {rest rest' : List Transaction} {i : Instr}
    (hparams : s'.params = s.params) (hmem : s.mem.wf = true) (hmem' : s'.mem.wf = true)
    (htakes : takesBuffer x.words.port = true) (hlen : pduLen i = some x.buffer.length)
    (hexec : exec i (present s x rest) = .next u) (hexec' : exec i (present s' x rest') = .next u') :
    u'.answer = u.answer ∧ u'.returned = u.returned ∧ u'.ports = { u.ports with nameId := u'.ports.nameId } := by
  have hbytes : SameBytes x.buffer.length (present s x rest).mem (present s' x rest').mem := by
    intro j hj
    rw [readMem_present hmem htakes, readMem_present hmem' htakes, if_pos hj, if_pos hj]
  obtain ⟨r, rfl, rfl⟩ := exec_present_congr hparams htakes htakes rfl rfl hbytes hlen hlen rfl hexec hexec'
  exact ⟨rfl, by simp, by simp [← drivePorts_eq_with_nameId]⟩

/-- Settles O51: the three sorts of transactions, none of which reads an output or an answer. -/
theorem resultsDoNotDependOnHistory : Obligations.ResultsDoNotDependOnHistory := by
  intro s s' u u' t rest rest' i hparams hpending hpending' hmem hmem' hdecode htrue hstep hstep'
  have hexec := exec_of_step hpending hdecode hstep
  have hexec' := exec_of_step hpending' (hparams ▸ hdecode) hstep'
  obtain ⟨c, -, -, hlen, hshow⟩ | ⟨a, hport, hlen, hanswer⟩ | ⟨len, htakes, hlen, -⟩ := decode_sorts hdecode
  · obtain ⟨name, hname, rfl⟩ := showVariant_next (hshow _ ▸ hexec)
    obtain ⟨name', hname', rfl⟩ := showVariant_next (hshow _ ▸ hexec')
    rw [present_params] at hname hname'
    rw [hparams, hname] at hname'
    exact ⟨rfl, fun len h => (nomatch hlen.symm.trans h), fun _ => ⟨rfl, (Except.ok.inj hname').symm⟩⟩
  · cases (hanswer _).symm.trans hexec
    cases (hanswer _).symm.trans hexec'
    refine ⟨rfl, fun len h => (nomatch hlen.symm.trans h), fun h => ?_⟩
    obtain hcode | hcode := h <;> simp [hcode] at hport
  · obtain rfl := htrue len hlen
    obtain ⟨hans, hresult, hports⟩ := exec_pdu_of_histories hparams hmem hmem' htakes hlen hexec hexec'
    refine ⟨hans, fun _ _ => ⟨hresult, hports⟩, fun h => ?_⟩
    obtain hcode | hcode := h <;> simp [hcode, takesBuffer] at htakes

end Sys2Proof.Machine
end
